-- ==== Sys2Proof/Word.lean ====
section
/-! DEFINITION. The word types of the hardware: 32-bit words, bytes, register indices and the three operand widths. -/

namespace Sys2Proof

/-- A 32-bit register, address or immediate (10_state.md R21, R28). -/
abbrev Word := BitVec 32

/-- One byte of memory (10_state.md R43). -/
abbrev Byte := BitVec 8

/-- A 3-bit register field: ModRM reg, ModRM rm, SIB index or base, or the low bits of an opcode (10_state.md R25). -/
abbrev RegIdx := BitVec 3

/-- The operand width N of an instruction: 8, 16 or 32 bits (00_scope.md R10). -/
inductive Width where
  | w8
  | w16
  | w32
  deriving DecidableEq, Repr

/-- The number of bits of an operand width. -/
@[reducible] def Width.bits : Width → Nat
  | .w8 => 8
  | .w16 => 16
  | .w32 => 32

/-- The number of bytes of an operand width, N/8. -/
@[reducible] def Width.bytes : Width → Nat
  | .w8 => 1
  | .w16 => 2
  | .w32 => 4

end Sys2Proof
end

