-- ==== Sys2Proof/Syntax.lean ====
section
/-! DEFINITION. The instructions of spec/opcode_table.json, one constructor per row, and their operands. -/

namespace Sys2Proof

/-- A memory operand: the forms of 41_addressing.md R189, mod and rm (and SIB) taken apart.
The displacement is held as it is encoded. -/
inductive MemOperand where
  /-- mod = 0, rm not 4 or 5: the address is x[r]. -/
  | base (r : RegIdx)
  /-- mod = 0, rm = 5: the address is the displacement alone. -/
  | disp32 (d : Word)
  /-- mod = 1, rm not 4. -/
  | baseDisp8 (r : RegIdx) (d : Byte)
  /-- mod = 2, rm not 4. -/
  | baseDisp32 (r : RegIdx) (d : Word)
  /-- mod = 0, rm = 4: SIB and no displacement, whatever SIB.base is (41_addressing.md R188). -/
  | sib (scale : BitVec 2) (index base : RegIdx)
  /-- mod = 1, rm = 4. -/
  | sibDisp8 (scale : BitVec 2) (index base : RegIdx) (d : Byte)
  /-- mod = 2, rm = 4. -/
  | sibDisp32 (scale : BitVec 2) (index base : RegIdx) (d : Word)
  deriving DecidableEq, Repr

/-- A register-or-memory operand (30_encoding.md R109): a register when mod = 3, else memory. -/
inductive Rm where
  | reg (r : RegIdx)
  | mem (m : MemOperand)
  deriving DecidableEq, Repr

/-- What of PFX decoding depends on (30_encoding.md R101, R139): OS32, AS32 and OPOVR. -/
structure DecodeMode where
  os32 : Bool
  as32 : Bool
  opovr : Bool
  deriving DecidableEq, Repr

/-- The mode at the start of every instruction (10_state.md R39). -/
def DecodeMode.default : DecodeMode := { os32 := true, as32 := true, opovr := false }

/-- The mode after a prefix byte 0x66 (49_dispatch.md R476). -/
def DecodeMode.opsize16 : DecodeMode := { os32 := false, as32 := true, opovr := true }

/-- The mode after a prefix byte 0x67 (49_dispatch.md R476). -/
def DecodeMode.addr16 : DecodeMode := { os32 := true, as32 := false, opovr := false }

/-- An instruction or a prefix byte. An immediate of kind `iv` is held in 32 bits, zero-extended at operand size 16
(log 15); the ModRM reg field that C6, C7 and 8F do not look at is held as `x` (30_encoding.md R136, log 16). The memory
operand of LEA is a `MemOperand`, since LEA has no register form (45_data_movement.md R359). A prefix byte is an entry of
the dispatch table like any other (49_dispatch.md R475) and has its constructor (log 9). -/
inductive Instr where
  /-- ADD r/m8, r8; 00 under mask FF. -/
  | addRm8R8 (d : Rm) (r : RegIdx)
  /-- ADD r/mv, rv; 01 under mask FF. -/
  | addRmvRv (d : Rm) (r : RegIdx)
  /-- ADD r8, r/m8; 02 under mask FF. -/
  | addR8Rm8 (r : RegIdx) (d : Rm)
  /-- ADD rv, r/mv; 03 under mask FF. -/
  | addRvRmv (r : RegIdx) (d : Rm)
  /-- ADD AL, imm8; 04 under mask FF. -/
  | addAlImm8 (imm : Byte)
  /-- ADD eAX, immv; 05 under mask FF. -/
  | addEaxImmv (imm : Word)
  /-- ADD r/mv, immv; 81 00 under mask FF 38. -/
  | addRmvImmv (d : Rm) (imm : Word)
  /-- ADD r/mv, imm8s; 83 00 under mask FF 38. -/
  | addRmvImm8s (d : Rm) (imm : Byte)
  /-- OR r/m8, r8; 08 under mask FF. -/
  | orRm8R8 (d : Rm) (r : RegIdx)
  /-- OR r/mv, rv; 09 under mask FF. -/
  | orRmvRv (d : Rm) (r : RegIdx)
  /-- OR r8, r/m8; 0A under mask FF. -/
  | orR8Rm8 (r : RegIdx) (d : Rm)
  /-- OR rv, r/mv; 0B under mask FF. -/
  | orRvRmv (r : RegIdx) (d : Rm)
  /-- OR AL, imm8; 0C under mask FF. -/
  | orAlImm8 (imm : Byte)
  /-- OR eAX, immv; 0D under mask FF. -/
  | orEaxImmv (imm : Word)
  /-- OR r/mv, immv; 81 08 under mask FF 38. -/
  | orRmvImmv (d : Rm) (imm : Word)
  /-- OR r/mv, imm8s; 83 08 under mask FF 38. -/
  | orRmvImm8s (d : Rm) (imm : Byte)
  /-- AND r/m8, r8; 20 under mask FF. -/
  | andRm8R8 (d : Rm) (r : RegIdx)
  /-- AND r/mv, rv; 21 under mask FF. -/
  | andRmvRv (d : Rm) (r : RegIdx)
  /-- AND r8, r/m8; 22 under mask FF. -/
  | andR8Rm8 (r : RegIdx) (d : Rm)
  /-- AND rv, r/mv; 23 under mask FF. -/
  | andRvRmv (r : RegIdx) (d : Rm)
  /-- AND AL, imm8; 24 under mask FF. -/
  | andAlImm8 (imm : Byte)
  /-- AND eAX, immv; 25 under mask FF. -/
  | andEaxImmv (imm : Word)
  /-- AND r/mv, immv; 81 20 under mask FF 38. -/
  | andRmvImmv (d : Rm) (imm : Word)
  /-- AND r/mv, imm8s; 83 20 under mask FF 38. -/
  | andRmvImm8s (d : Rm) (imm : Byte)
  /-- SUB r/m8, r8; 28 under mask FF. -/
  | subRm8R8 (d : Rm) (r : RegIdx)
  /-- SUB r/mv, rv; 29 under mask FF. -/
  | subRmvRv (d : Rm) (r : RegIdx)
  /-- SUB r8, r/m8; 2A under mask FF. -/
  | subR8Rm8 (r : RegIdx) (d : Rm)
  /-- SUB rv, r/mv; 2B under mask FF. -/
  | subRvRmv (r : RegIdx) (d : Rm)
  /-- SUB AL, imm8; 2C under mask FF. -/
  | subAlImm8 (imm : Byte)
  /-- SUB eAX, immv; 2D under mask FF. -/
  | subEaxImmv (imm : Word)
  /-- SUB r/mv, immv; 81 28 under mask FF 38. -/
  | subRmvImmv (d : Rm) (imm : Word)
  /-- SUB r/mv, imm8s; 83 28 under mask FF 38. -/
  | subRmvImm8s (d : Rm) (imm : Byte)
  /-- XOR r/m8, r8; 30 under mask FF. -/
  | xorRm8R8 (d : Rm) (r : RegIdx)
  /-- XOR r/mv, rv; 31 under mask FF. -/
  | xorRmvRv (d : Rm) (r : RegIdx)
  /-- XOR r8, r/m8; 32 under mask FF. -/
  | xorR8Rm8 (r : RegIdx) (d : Rm)
  /-- XOR rv, r/mv; 33 under mask FF. -/
  | xorRvRmv (r : RegIdx) (d : Rm)
  /-- XOR AL, imm8; 34 under mask FF. -/
  | xorAlImm8 (imm : Byte)
  /-- XOR eAX, immv; 35 under mask FF. -/
  | xorEaxImmv (imm : Word)
  /-- XOR r/mv, immv; 81 30 under mask FF 38. -/
  | xorRmvImmv (d : Rm) (imm : Word)
  /-- XOR r/mv, imm8s; 83 30 under mask FF 38. -/
  | xorRmvImm8s (d : Rm) (imm : Byte)
  /-- CMP r/m8, r8; 38 under mask FF. -/
  | cmpRm8R8 (d : Rm) (r : RegIdx)
  /-- CMP r/mv, rv; 39 under mask FF. -/
  | cmpRmvRv (d : Rm) (r : RegIdx)
  /-- CMP r8, r/m8; 3A under mask FF. -/
  | cmpR8Rm8 (r : RegIdx) (d : Rm)
  /-- CMP rv, r/mv; 3B under mask FF. -/
  | cmpRvRmv (r : RegIdx) (d : Rm)
  /-- CMP AL, imm8; 3C under mask FF. -/
  | cmpAlImm8 (imm : Byte)
  /-- CMP eAX, immv; 3D under mask FF. -/
  | cmpEaxImmv (imm : Word)
  /-- CMP r/mv, immv; 81 38 under mask FF 38. -/
  | cmpRmvImmv (d : Rm) (imm : Word)
  /-- CMP r/mv, imm8s; 83 38 under mask FF 38. -/
  | cmpRmvImm8s (d : Rm) (imm : Byte)
  /-- TEST r/m8, r8; 84 under mask FF. -/
  | testRm8R8 (d : Rm) (r : RegIdx)
  /-- TEST r/mv, rv; 85 under mask FF. -/
  | testRmvRv (d : Rm) (r : RegIdx)
  /-- TEST AL, imm8; A8 under mask FF. -/
  | testAlImm8 (imm : Byte)
  /-- TEST eAX, immv; A9 under mask FF. -/
  | testEaxImmv (imm : Word)
  /-- TEST r/mv, immv; F7 00 under mask FF 38. -/
  | testRmvImmv (d : Rm) (imm : Word)
  /-- NOT r/mv; F7 10 under mask FF 38. -/
  | notRmv (d : Rm)
  /-- NEG r/mv; F7 18 under mask FF 38. -/
  | negRmv (d : Rm)
  /-- MUL r/mv; F7 20 under mask FF 38. -/
  | mulRmv (d : Rm)
  /-- IMUL r/mv; F7 28 under mask FF 38. -/
  | imulRmv (d : Rm)
  /-- DIV r/mv; F7 30 under mask FF 38. -/
  | divRmv (d : Rm)
  /-- IDIV r/mv; F7 38 under mask FF 38. -/
  | idivRmv (d : Rm)
  /-- INC rv; 40 under mask F8. -/
  | incRv (r : RegIdx)
  /-- INC r/mv; FF 00 under mask FF 38. -/
  | incRmv (d : Rm)
  /-- DEC rv; 48 under mask F8. -/
  | decRv (r : RegIdx)
  /-- DEC r/mv; FF 08 under mask FF 38. -/
  | decRmv (d : Rm)
  /-- ROL r/mv, imm8; C1 00 under mask FF 38. -/
  | rolRmvImm8 (d : Rm) (imm : Byte)
  /-- ROL r/mv, 1; D1 00 under mask FF 38. -/
  | rolRmvOne (d : Rm)
  /-- ROL r/mv, CL; D3 00 under mask FF 38. -/
  | rolRmvCl (d : Rm)
  /-- ROR r/mv, imm8; C1 08 under mask FF 38. -/
  | rorRmvImm8 (d : Rm) (imm : Byte)
  /-- ROR r/mv, 1; D1 08 under mask FF 38. -/
  | rorRmvOne (d : Rm)
  /-- ROR r/mv, CL; D3 08 under mask FF 38. -/
  | rorRmvCl (d : Rm)
  /-- RCL r/mv, imm8; C1 10 under mask FF 38. -/
  | rclRmvImm8 (d : Rm) (imm : Byte)
  /-- RCL r/mv, 1; D1 10 under mask FF 38. -/
  | rclRmvOne (d : Rm)
  /-- RCL r/mv, CL; D3 10 under mask FF 38. -/
  | rclRmvCl (d : Rm)
  /-- RCR r/mv, imm8; C1 18 under mask FF 38. -/
  | rcrRmvImm8 (d : Rm) (imm : Byte)
  /-- RCR r/mv, 1; D1 18 under mask FF 38. -/
  | rcrRmvOne (d : Rm)
  /-- RCR r/mv, CL; D3 18 under mask FF 38. -/
  | rcrRmvCl (d : Rm)
  /-- SHL r/mv, imm8; C1 20 under mask FF 38. -/
  | shlRmvImm8 (d : Rm) (imm : Byte)
  /-- SHL r/mv, 1; D1 20 under mask FF 38. -/
  | shlRmvOne (d : Rm)
  /-- SHL r/mv, CL; D3 20 under mask FF 38. -/
  | shlRmvCl (d : Rm)
  /-- SHR r/mv, imm8; C1 28 under mask FF 38. -/
  | shrRmvImm8 (d : Rm) (imm : Byte)
  /-- SHR r/mv, 1; D1 28 under mask FF 38. -/
  | shrRmvOne (d : Rm)
  /-- SHR r/mv, CL; D3 28 under mask FF 38. -/
  | shrRmvCl (d : Rm)
  /-- SAR r/mv, imm8; C1 38 under mask FF 38. -/
  | sarRmvImm8 (d : Rm) (imm : Byte)
  /-- SAR r/mv, 1; D1 38 under mask FF 38. -/
  | sarRmvOne (d : Rm)
  /-- SAR r/mv, CL; D3 38 under mask FF 38. -/
  | sarRmvCl (d : Rm)
  /-- MOV r/m8, r8; 88 under mask FF. -/
  | movRm8R8 (d : Rm) (r : RegIdx)
  /-- MOV r/mv, rv; 89 under mask FF. -/
  | movRmvRv (d : Rm) (r : RegIdx)
  /-- MOV r8, r/m8; 8A under mask FF. -/
  | movR8Rm8 (r : RegIdx) (d : Rm)
  /-- MOV rv, r/mv; 8B under mask FF. -/
  | movRvRmv (r : RegIdx) (d : Rm)
  /-- MOV r8, imm8; B0 under mask F8. -/
  | movR8Imm8 (r : RegIdx) (imm : Byte)
  /-- MOV rv, immv; B8 under mask F8. -/
  | movRvImmv (r : RegIdx) (imm : Word)
  /-- MOV r/m8, imm8; C6 under mask FF. -/
  | movRm8Imm8 (x : RegIdx) (d : Rm) (imm : Byte)
  /-- MOV r/mv, immv; C7 under mask FF. -/
  | movRmvImmv (x : RegIdx) (d : Rm) (imm : Word)
  /-- LEA rv, m; 8D under mask FF. -/
  | lea (r : RegIdx) (m : MemOperand)
  /-- PUSH rv; 50 under mask F8. -/
  | pushRv (r : RegIdx)
  /-- PUSH immv; 68 under mask FF. -/
  | pushImmv (imm : Word)
  /-- PUSH imm8s; 6A under mask FF. -/
  | pushImm8s (imm : Byte)
  /-- PUSH r/mv; FF 30 under mask FF 38. -/
  | pushRmv (d : Rm)
  /-- POP rv; 58 under mask F8. -/
  | popRv (r : RegIdx)
  /-- POP r/mv; 8F under mask FF. -/
  | popRmv (x : RegIdx) (d : Rm)
  /-- LEAVE; C9 under mask FF. -/
  | leave
  /-- JMP rel8; EB under mask FF. -/
  | jmpRel8 (rel : Byte)
  /-- JMP rel32; E9 under mask FF. -/
  | jmpRel32 (rel : Word)
  /-- JO rel8; 70 under mask FF. -/
  | joRel8 (rel : Byte)
  /-- JNO rel8; 71 under mask FF. -/
  | jnoRel8 (rel : Byte)
  /-- JB rel8; 72 under mask FF. -/
  | jbRel8 (rel : Byte)
  /-- JAE rel8; 73 under mask FF. -/
  | jaeRel8 (rel : Byte)
  /-- JE rel8; 74 under mask FF. -/
  | jeRel8 (rel : Byte)
  /-- JNE rel8; 75 under mask FF. -/
  | jneRel8 (rel : Byte)
  /-- JBE rel8; 76 under mask FF. -/
  | jbeRel8 (rel : Byte)
  /-- JA rel8; 77 under mask FF. -/
  | jaRel8 (rel : Byte)
  /-- JS rel8; 78 under mask FF. -/
  | jsRel8 (rel : Byte)
  /-- JNS rel8; 79 under mask FF. -/
  | jnsRel8 (rel : Byte)
  /-- JP rel8; 7A under mask FF. -/
  | jpRel8 (rel : Byte)
  /-- JNP rel8; 7B under mask FF. -/
  | jnpRel8 (rel : Byte)
  /-- JL rel8; 7C under mask FF. -/
  | jlRel8 (rel : Byte)
  /-- JGE rel8; 7D under mask FF. -/
  | jgeRel8 (rel : Byte)
  /-- JLE rel8; 7E under mask FF. -/
  | jleRel8 (rel : Byte)
  /-- JG rel8; 7F under mask FF. -/
  | jgRel8 (rel : Byte)
  /-- JO rel32; 0F 80 under mask FF FF. -/
  | joRel32 (rel : Word)
  /-- JNO rel32; 0F 81 under mask FF FF. -/
  | jnoRel32 (rel : Word)
  /-- JB rel32; 0F 82 under mask FF FF. -/
  | jbRel32 (rel : Word)
  /-- JAE rel32; 0F 83 under mask FF FF. -/
  | jaeRel32 (rel : Word)
  /-- JE rel32; 0F 84 under mask FF FF. -/
  | jeRel32 (rel : Word)
  /-- JNE rel32; 0F 85 under mask FF FF. -/
  | jneRel32 (rel : Word)
  /-- JBE rel32; 0F 86 under mask FF FF. -/
  | jbeRel32 (rel : Word)
  /-- JA rel32; 0F 87 under mask FF FF. -/
  | jaRel32 (rel : Word)
  /-- JS rel32; 0F 88 under mask FF FF. -/
  | jsRel32 (rel : Word)
  /-- JNS rel32; 0F 89 under mask FF FF. -/
  | jnsRel32 (rel : Word)
  /-- JP rel32; 0F 8A under mask FF FF. -/
  | jpRel32 (rel : Word)
  /-- JNP rel32; 0F 8B under mask FF FF. -/
  | jnpRel32 (rel : Word)
  /-- JL rel32; 0F 8C under mask FF FF. -/
  | jlRel32 (rel : Word)
  /-- JGE rel32; 0F 8D under mask FF FF. -/
  | jgeRel32 (rel : Word)
  /-- JLE rel32; 0F 8E under mask FF FF. -/
  | jleRel32 (rel : Word)
  /-- JG rel32; 0F 8F under mask FF FF. -/
  | jgRel32 (rel : Word)
  /-- CALL rel32; E8 under mask FF. -/
  | callRel32 (rel : Word)
  /-- CALL r/m32; FF 10 under mask FF 38. -/
  | callRm32 (d : Rm)
  /-- RET; C3 under mask FF. -/
  | ret
  /-- INT imm8; CD under mask FF. -/
  | intImm8 (v : Byte)
  /-- STOS; AB under mask FF. -/
  | stos
  /-- IN AL, imm8; E4 under mask FF. -/
  | inAlImm8 (port : Byte)
  /-- IN AL, DX; EC under mask FF. -/
  | inAlDx
  /-- OUT imm8, AL; E6 under mask FF. -/
  | outImm8Al (port : Byte)
  /-- OUT DX, AL; EE under mask FF. -/
  | outDxAl
  /-- the prefix byte of ES; 26 under mask FF. -/
  | segEs
  /-- the prefix byte of CS; 2E under mask FF. -/
  | segCs
  /-- the prefix byte of SS; 36 under mask FF. -/
  | segSs
  /-- the prefix byte of DS; 3E under mask FF. -/
  | segDs
  /-- the prefix byte of FS; 64 under mask FF. -/
  | segFs
  /-- the prefix byte of GS; 65 under mask FF. -/
  | segGs
  /-- the prefix byte of OPSIZE; 66 under mask FF. -/
  | opSize
  /-- the prefix byte of ADDRSIZE; 67 under mask FF. -/
  | addrSize
  /-- the prefix byte of LOCK; F0 under mask FF. -/
  | lock
  /-- the prefix byte of REPNZ; F2 under mask FF. -/
  | repnz
  /-- the prefix byte of REPZ; F3 under mask FF. -/
  | repz
  deriving DecidableEq, Repr

end Sys2Proof
end

