-- ==== Sys2Proof/WellFormed.lean ====
section
/-! DEFINITION. Which instructions have an encoding in a decoding mode: the checks an encoding makes on its operands. -/

namespace Sys2Proof

/-- Whether a memory operand has an encoding: 32-bit addressing (41_addressing.md R184), and no base register whose rm
value the form does not have (41_addressing.md R189: rm = 4 is SIB, rm = 5 with mod = 0 is disp32). -/
def MemOperand.wf (m : DecodeMode) : MemOperand → Bool
  | .base r => m.as32 && (r != 4#3 && r != 5#3)
  | .disp32 _ => m.as32
  | .baseDisp8 r _ => m.as32 && r != 4#3
  | .baseDisp32 r _ => m.as32 && r != 4#3
  | .sib _ _ _ => m.as32
  | .sibDisp8 _ _ _ _ => m.as32
  | .sibDisp32 _ _ _ _ => m.as32

/-- Whether a register-or-memory operand has an encoding. -/
def Rm.wf (m : DecodeMode) : Rm → Bool
  | .reg _ => true
  | .mem o => o.wf m

/-- Whether an immediate of kind `iv` fits the operand size (30_encoding.md R108). -/
def immvWf (m : DecodeMode) (imm : Word) : Bool :=
  m.os32 || decide (imm.toNat < 0x10000)

/-- Whether the relative transfers are decoded: not under prefix 0x66 (30_encoding.md R139, 49_dispatch.md R490). -/
def relWf (m : DecodeMode) : Bool := !m.opovr

/-- Whether a constructor stands for a prefix byte (30_encoding.md R134). -/
def Instr.isPfxByte : Instr → Bool
  | .segEs | .segCs | .segSs | .segDs | .segFs | .segGs | .opSize | .addrSize | .lock | .repnz | .repz => true
  | _ => false

/-- Whether an instruction has an encoding in the mode, constructor by constructor. -/
def Instr.wf (m : DecodeMode) : Instr → Bool
  | .addRm8R8 d _ => d.wf m
  | .addRmvRv d _ => d.wf m
  | .addR8Rm8 _ d => d.wf m
  | .addRvRmv _ d => d.wf m
  | .addAlImm8 _ => true
  | .addEaxImmv imm => immvWf m imm
  | .addRmvImmv d imm => d.wf m && immvWf m imm
  | .addRmvImm8s d _ => d.wf m
  | .orRm8R8 d _ => d.wf m
  | .orRmvRv d _ => d.wf m
  | .orR8Rm8 _ d => d.wf m
  | .orRvRmv _ d => d.wf m
  | .orAlImm8 _ => true
  | .orEaxImmv imm => immvWf m imm
  | .orRmvImmv d imm => d.wf m && immvWf m imm
  | .orRmvImm8s d _ => d.wf m
  | .andRm8R8 d _ => d.wf m
  | .andRmvRv d _ => d.wf m
  | .andR8Rm8 _ d => d.wf m
  | .andRvRmv _ d => d.wf m
  | .andAlImm8 _ => true
  | .andEaxImmv imm => immvWf m imm
  | .andRmvImmv d imm => d.wf m && immvWf m imm
  | .andRmvImm8s d _ => d.wf m
  | .subRm8R8 d _ => d.wf m
  | .subRmvRv d _ => d.wf m
  | .subR8Rm8 _ d => d.wf m
  | .subRvRmv _ d => d.wf m
  | .subAlImm8 _ => true
  | .subEaxImmv imm => immvWf m imm
  | .subRmvImmv d imm => d.wf m && immvWf m imm
  | .subRmvImm8s d _ => d.wf m
  | .xorRm8R8 d _ => d.wf m
  | .xorRmvRv d _ => d.wf m
  | .xorR8Rm8 _ d => d.wf m
  | .xorRvRmv _ d => d.wf m
  | .xorAlImm8 _ => true
  | .xorEaxImmv imm => immvWf m imm
  | .xorRmvImmv d imm => d.wf m && immvWf m imm
  | .xorRmvImm8s d _ => d.wf m
  | .cmpRm8R8 d _ => d.wf m
  | .cmpRmvRv d _ => d.wf m
  | .cmpR8Rm8 _ d => d.wf m
  | .cmpRvRmv _ d => d.wf m
  | .cmpAlImm8 _ => true
  | .cmpEaxImmv imm => immvWf m imm
  | .cmpRmvImmv d imm => d.wf m && immvWf m imm
  | .cmpRmvImm8s d _ => d.wf m
  | .testRm8R8 d _ => d.wf m
  | .testRmvRv d _ => d.wf m
  | .testAlImm8 _ => true
  | .testEaxImmv imm => immvWf m imm
  | .testRmvImmv d imm => d.wf m && immvWf m imm
  | .notRmv d => d.wf m
  | .negRmv d => d.wf m
  | .mulRmv d => d.wf m
  | .imulRmv d => d.wf m
  | .divRmv d => d.wf m
  | .idivRmv d => d.wf m
  | .incRv _ => true
  | .incRmv d => d.wf m
  | .decRv _ => true
  | .decRmv d => d.wf m
  | .rolRmvImm8 d _ => d.wf m
  | .rolRmvOne d => d.wf m
  | .rolRmvCl d => d.wf m
  | .rorRmvImm8 d _ => d.wf m
  | .rorRmvOne d => d.wf m
  | .rorRmvCl d => d.wf m
  | .rclRmvImm8 d _ => d.wf m
  | .rclRmvOne d => d.wf m
  | .rclRmvCl d => d.wf m
  | .rcrRmvImm8 d _ => d.wf m
  | .rcrRmvOne d => d.wf m
  | .rcrRmvCl d => d.wf m
  | .shlRmvImm8 d _ => d.wf m
  | .shlRmvOne d => d.wf m
  | .shlRmvCl d => d.wf m
  | .shrRmvImm8 d _ => d.wf m
  | .shrRmvOne d => d.wf m
  | .shrRmvCl d => d.wf m
  | .sarRmvImm8 d _ => d.wf m
  | .sarRmvOne d => d.wf m
  | .sarRmvCl d => d.wf m
  | .movRm8R8 d _ => d.wf m
  | .movRmvRv d _ => d.wf m
  | .movR8Rm8 _ d => d.wf m
  | .movRvRmv _ d => d.wf m
  | .movR8Imm8 _ _ => true
  | .movRvImmv _ imm => immvWf m imm
  | .movRm8Imm8 _ d _ => d.wf m
  | .movRmvImmv _ d imm => d.wf m && immvWf m imm
  | .lea _ mo => mo.wf m
  | .pushRv _ => true
  | .pushImmv imm => immvWf m imm
  | .pushImm8s _ => true
  | .pushRmv d => d.wf m
  | .popRv _ => true
  | .popRmv _ d => d.wf m
  | .leave => true
  | .jmpRel8 _ => relWf m
  | .jmpRel32 _ => relWf m
  | .joRel8 _ => relWf m
  | .jnoRel8 _ => relWf m
  | .jbRel8 _ => relWf m
  | .jaeRel8 _ => relWf m
  | .jeRel8 _ => relWf m
  | .jneRel8 _ => relWf m
  | .jbeRel8 _ => relWf m
  | .jaRel8 _ => relWf m
  | .jsRel8 _ => relWf m
  | .jnsRel8 _ => relWf m
  | .jpRel8 _ => relWf m
  | .jnpRel8 _ => relWf m
  | .jlRel8 _ => relWf m
  | .jgeRel8 _ => relWf m
  | .jleRel8 _ => relWf m
  | .jgRel8 _ => relWf m
  | .joRel32 _ => relWf m
  | .jnoRel32 _ => relWf m
  | .jbRel32 _ => relWf m
  | .jaeRel32 _ => relWf m
  | .jeRel32 _ => relWf m
  | .jneRel32 _ => relWf m
  | .jbeRel32 _ => relWf m
  | .jaRel32 _ => relWf m
  | .jsRel32 _ => relWf m
  | .jnsRel32 _ => relWf m
  | .jpRel32 _ => relWf m
  | .jnpRel32 _ => relWf m
  | .jlRel32 _ => relWf m
  | .jgeRel32 _ => relWf m
  | .jleRel32 _ => relWf m
  | .jgRel32 _ => relWf m
  | .callRel32 _ => relWf m
  | .callRm32 d => d.wf m
  | .ret => true
  | .intImm8 _ => true
  | .stos => true
  | .inAlImm8 _ => true
  | .inAlDx => true
  | .outImm8Al _ => true
  | .outDxAl => true
  | .segEs => true
  | .segCs => true
  | .segSs => true
  | .segDs => true
  | .segFs => true
  | .segGs => true
  | .opSize => true
  | .addrSize => true
  | .lock => true
  | .repnz => true
  | .repz => true

end Sys2Proof
end

