-- ==== Sys2Proof/Decode.lean ====
section
/-! DEFINITION. The decoder, total on any bytes, and after it the encoder, both written from spec/30_encoding.md. -/

namespace Sys2Proof

/-! ## Byte order -/

/-- The value of a field of bytes, lowest address first: little-endian (20_memory.md R62, R64). -/
def leValue : List Byte → Word
  | [] => 0
  | b :: bs => b.setWidth 32 ||| (leValue bs <<< 8)

/-- The `n` low bytes of a value, lowest address first (20_memory.md R63, R64). -/
def leBytes : Nat → Word → List Byte
  | 0, _ => []
  | n + 1, v => v.setWidth 8 :: leBytes n (v >>> 8)

/-! ## Fetching -/

/-- `fetch8`, `fetch16`, `fetch32` of 30_encoding.md R102, at an offset from the first byte: `none` where the fetch
would be out of bounds. -/
abbrev Fetch := (off n : Nat) → Option Word

/-- Fetching from a list of bytes. -/
def listFetch (bs : List Byte) : Fetch := fun off n =>
  if off + n ≤ bs.length then some (leValue ((bs.drop off).take n)) else none

/-- Why the decoder refuses a byte sequence (30_encoding.md R139). -/
inductive DecodeRefusal where
  /-- prefix 0x67 and a ModRM byte with mod not 3 (41_addressing.md R184). -/
  | addr16
  /-- prefix 0x66 before a relative transfer (47_control_transfer.md R441). -/
  | opsize16Transfer
  /-- LEA with mod = 3 (45_data_movement.md R359). -/
  | leaReg
  deriving DecidableEq, Repr

/-- What the bytes at an address decode to. -/
inductive Decoded where
  /-- a non-prefix instruction and its length (30_encoding.md R140). -/
  | ok (i : Instr) (len : Nat)
  /-- a prefix byte (49_dispatch.md R476). -/
  | pfxByte (i : Instr)
  /-- the fetch of the `n`-byte field at offset `off` is out of bounds (30_encoding.md R102). -/
  | truncated (off n : Nat)
  /-- decode failure with the offending bytes (49_dispatch.md R473, 60_exceptions.md R502). -/
  | unmapped (bytes : List Byte)
  /-- a refused encoding (30_encoding.md R139). -/
  | refused (why : DecodeRefusal)
  deriving DecidableEq, Repr

/-- Fetch one byte and go on (30_encoding.md R102). -/
def withByte (f : Fetch) (off : Nat) (k : Byte → Decoded) : Decoded :=
  match f off 1 with
  | some v => k (v.setWidth 8)
  | none => .truncated off 1

/-- Fetch a field of `n` bytes and go on (30_encoding.md R102). -/
def withField (f : Fetch) (off n : Nat) (k : Word → Decoded) : Decoded :=
  match f off n with
  | some v => k v
  | none => .truncated off n

/-- How many bytes an immediate of kind `iv` has (30_encoding.md R108). -/
def DecodeMode.ivBytes (m : DecodeMode) : Nat := if m.os32 then 4 else 2

/-- `decode_modrm()` (41_addressing.md R181): the ModRM byte, the SIB byte and the displacement in that order. Goes on
with the ModRM byte, its reg field, the operand its mod and rm fields name, and the offset of the next byte. -/
def withModrm (f : Fetch) (m : DecodeMode) (off : Nat)
    (k : (b : Byte) → (reg : RegIdx) → Rm → (next : Nat) → Decoded) : Decoded :=
  withByte f off fun b =>
    let md := b.extractLsb' 6 2
    let reg := b.extractLsb' 3 3
    let rm := b.extractLsb' 0 3
    if md = 3#2 then k b reg (.reg rm) (off + 1)
    else if m.as32 = false then .refused .addr16
    else if rm = 4#3 then
      withByte f (off + 1) fun s =>
        let scale := s.extractLsb' 6 2
        let index := s.extractLsb' 3 3
        let base := s.extractLsb' 0 3
        if md = 0#2 then k b reg (.mem (.sib scale index base)) (off + 2)
        else if md = 1#2 then
          withByte f (off + 2) fun d => k b reg (.mem (.sibDisp8 scale index base d)) (off + 3)
        else withField f (off + 2) 4 fun d => k b reg (.mem (.sibDisp32 scale index base d)) (off + 6)
    else if md = 0#2 then
      if rm = 5#3 then withField f (off + 1) 4 fun d => k b reg (.mem (.disp32 d)) (off + 5)
      else k b reg (.mem (.base rm)) (off + 1)
    else if md = 1#2 then withByte f (off + 1) fun d => k b reg (.mem (.baseDisp8 rm d)) (off + 2)
    else withField f (off + 1) 4 fun d => k b reg (.mem (.baseDisp32 rm d)) (off + 5)

/-! ## The dispatch tables (49_dispatch.md R470 to R472) -/

/-- A mapped reg value under a group opcode (49_dispatch.md R472), with the immediate its sub-handler fetches. -/
inductive SubEntry where
  | rm (mk : Rm → Instr)
  | rmIb (mk : Rm → Byte → Instr)
  | rmIv (mk : Rm → Word → Instr)

/-- What an entry of the primary table does with the bytes after the opcode byte. -/
inductive Entry where
  /-- a prefix byte. -/
  | pfx (i : Instr)
  /-- the escape 0x0F. -/
  | escape
  /-- no more bytes. -/
  | nullary (i : Instr)
  /-- a register in the low three bits of the opcode (30_encoding.md R103). -/
  | plusReg (mk : RegIdx → Instr)
  /-- an immediate of kind `ib` or `ibs`. -/
  | ib (mk : Byte → Instr)
  /-- a register in the opcode and an immediate of kind `ib`. -/
  | plusRegIb (mk : RegIdx → Byte → Instr)
  /-- a register in the opcode and an immediate of kind `iv`. -/
  | plusRegIv (mk : RegIdx → Word → Instr)
  /-- an immediate of kind `iv`. -/
  | iv (mk : Word → Instr)
  /-- a branch offset of kind `rel8`, refused under prefix 0x66. -/
  | rel8 (mk : Byte → Instr)
  /-- a branch offset of kind `rel32`, refused under prefix 0x66. -/
  | rel32 (mk : Word → Instr)
  /-- ModRM with a register operand, or with a reg field that is not looked at. -/
  | modrm (mk : RegIdx → Rm → Instr)
  /-- the same and an immediate of kind `ib`. -/
  | modrmIb (mk : RegIdx → Rm → Byte → Instr)
  /-- the same and an immediate of kind `iv`. -/
  | modrmIv (mk : RegIdx → Rm → Word → Instr)
  /-- ModRM that must name memory (LEA). -/
  | modrmMem (mk : RegIdx → MemOperand → Instr)
  /-- a group opcode, with its sub-handlers by reg value 0 to 7. -/
  | group (subs : List (Option SubEntry))

/-- A row of a table: a byte `b` selects it when `b &&& mask = pattern`, as in spec/opcode_table.json (30_encoding.md R111). -/
structure Row where
  pattern : Byte
  mask : Byte
  entry : Entry


/-- The sub-handlers of group opcode 81 (49_dispatch.md R472). -/
def group81 : List (Option SubEntry) := [
  some (.rmIv .addRmvImmv),
  some (.rmIv .orRmvImmv),
  none,
  none,
  some (.rmIv .andRmvImmv),
  some (.rmIv .subRmvImmv),
  some (.rmIv .xorRmvImmv),
  some (.rmIv .cmpRmvImmv)]

/-- The sub-handlers of group opcode 83 (49_dispatch.md R472). -/
def group83 : List (Option SubEntry) := [
  some (.rmIb .addRmvImm8s),
  some (.rmIb .orRmvImm8s),
  none,
  none,
  some (.rmIb .andRmvImm8s),
  some (.rmIb .subRmvImm8s),
  some (.rmIb .xorRmvImm8s),
  some (.rmIb .cmpRmvImm8s)]

/-- The sub-handlers of group opcode C1 (49_dispatch.md R472). -/
def groupC1 : List (Option SubEntry) := [
  some (.rmIb .rolRmvImm8),
  some (.rmIb .rorRmvImm8),
  some (.rmIb .rclRmvImm8),
  some (.rmIb .rcrRmvImm8),
  some (.rmIb .shlRmvImm8),
  some (.rmIb .shrRmvImm8),
  none,
  some (.rmIb .sarRmvImm8)]

/-- The sub-handlers of group opcode D1 (49_dispatch.md R472). -/
def groupD1 : List (Option SubEntry) := [
  some (.rm .rolRmvOne),
  some (.rm .rorRmvOne),
  some (.rm .rclRmvOne),
  some (.rm .rcrRmvOne),
  some (.rm .shlRmvOne),
  some (.rm .shrRmvOne),
  none,
  some (.rm .sarRmvOne)]

/-- The sub-handlers of group opcode D3 (49_dispatch.md R472). -/
def groupD3 : List (Option SubEntry) := [
  some (.rm .rolRmvCl),
  some (.rm .rorRmvCl),
  some (.rm .rclRmvCl),
  some (.rm .rcrRmvCl),
  some (.rm .shlRmvCl),
  some (.rm .shrRmvCl),
  none,
  some (.rm .sarRmvCl)]

/-- The sub-handlers of group opcode F7 (49_dispatch.md R472). -/
def groupF7 : List (Option SubEntry) := [
  some (.rmIv .testRmvImmv),
  none,
  some (.rm .notRmv),
  some (.rm .negRmv),
  some (.rm .mulRmv),
  some (.rm .imulRmv),
  some (.rm .divRmv),
  some (.rm .idivRmv)]

/-- The sub-handlers of group opcode FF (49_dispatch.md R472). -/
def groupFF : List (Option SubEntry) := [
  some (.rm .incRmv),
  some (.rm .decRmv),
  some (.rm .callRm32),
  none,
  none,
  none,
  some (.rm .pushRmv),
  none]

/-- The rows of the primary table for first bytes 00 to 3F (30_encoding.md R120 to R134). -/
def primaryRows00 : List Row := [
  { pattern := 0x00#8, mask := 0xFF#8, entry := .modrm fun r d => .addRm8R8 d r },
  { pattern := 0x01#8, mask := 0xFF#8, entry := .modrm fun r d => .addRmvRv d r },
  { pattern := 0x02#8, mask := 0xFF#8, entry := .modrm .addR8Rm8 },
  { pattern := 0x03#8, mask := 0xFF#8, entry := .modrm .addRvRmv },
  { pattern := 0x04#8, mask := 0xFF#8, entry := .ib .addAlImm8 },
  { pattern := 0x05#8, mask := 0xFF#8, entry := .iv .addEaxImmv },
  { pattern := 0x08#8, mask := 0xFF#8, entry := .modrm fun r d => .orRm8R8 d r },
  { pattern := 0x09#8, mask := 0xFF#8, entry := .modrm fun r d => .orRmvRv d r },
  { pattern := 0x0A#8, mask := 0xFF#8, entry := .modrm .orR8Rm8 },
  { pattern := 0x0B#8, mask := 0xFF#8, entry := .modrm .orRvRmv },
  { pattern := 0x0C#8, mask := 0xFF#8, entry := .ib .orAlImm8 },
  { pattern := 0x0D#8, mask := 0xFF#8, entry := .iv .orEaxImmv },
  { pattern := 0x0F#8, mask := 0xFF#8, entry := .escape },
  { pattern := 0x20#8, mask := 0xFF#8, entry := .modrm fun r d => .andRm8R8 d r },
  { pattern := 0x21#8, mask := 0xFF#8, entry := .modrm fun r d => .andRmvRv d r },
  { pattern := 0x22#8, mask := 0xFF#8, entry := .modrm .andR8Rm8 },
  { pattern := 0x23#8, mask := 0xFF#8, entry := .modrm .andRvRmv },
  { pattern := 0x24#8, mask := 0xFF#8, entry := .ib .andAlImm8 },
  { pattern := 0x25#8, mask := 0xFF#8, entry := .iv .andEaxImmv },
  { pattern := 0x26#8, mask := 0xFF#8, entry := .pfx .segEs },
  { pattern := 0x28#8, mask := 0xFF#8, entry := .modrm fun r d => .subRm8R8 d r },
  { pattern := 0x29#8, mask := 0xFF#8, entry := .modrm fun r d => .subRmvRv d r },
  { pattern := 0x2A#8, mask := 0xFF#8, entry := .modrm .subR8Rm8 },
  { pattern := 0x2B#8, mask := 0xFF#8, entry := .modrm .subRvRmv },
  { pattern := 0x2C#8, mask := 0xFF#8, entry := .ib .subAlImm8 },
  { pattern := 0x2D#8, mask := 0xFF#8, entry := .iv .subEaxImmv },
  { pattern := 0x2E#8, mask := 0xFF#8, entry := .pfx .segCs },
  { pattern := 0x30#8, mask := 0xFF#8, entry := .modrm fun r d => .xorRm8R8 d r },
  { pattern := 0x31#8, mask := 0xFF#8, entry := .modrm fun r d => .xorRmvRv d r },
  { pattern := 0x32#8, mask := 0xFF#8, entry := .modrm .xorR8Rm8 },
  { pattern := 0x33#8, mask := 0xFF#8, entry := .modrm .xorRvRmv },
  { pattern := 0x34#8, mask := 0xFF#8, entry := .ib .xorAlImm8 },
  { pattern := 0x35#8, mask := 0xFF#8, entry := .iv .xorEaxImmv },
  { pattern := 0x36#8, mask := 0xFF#8, entry := .pfx .segSs },
  { pattern := 0x38#8, mask := 0xFF#8, entry := .modrm fun r d => .cmpRm8R8 d r },
  { pattern := 0x39#8, mask := 0xFF#8, entry := .modrm fun r d => .cmpRmvRv d r },
  { pattern := 0x3A#8, mask := 0xFF#8, entry := .modrm .cmpR8Rm8 },
  { pattern := 0x3B#8, mask := 0xFF#8, entry := .modrm .cmpRvRmv },
  { pattern := 0x3C#8, mask := 0xFF#8, entry := .ib .cmpAlImm8 },
  { pattern := 0x3D#8, mask := 0xFF#8, entry := .iv .cmpEaxImmv },
  { pattern := 0x3E#8, mask := 0xFF#8, entry := .pfx .segDs }]

/-- The rows of the primary table for first bytes 40 to 7F (30_encoding.md R120 to R134). -/
def primaryRows40 : List Row := [
  { pattern := 0x40#8, mask := 0xF8#8, entry := .plusReg .incRv },
  { pattern := 0x48#8, mask := 0xF8#8, entry := .plusReg .decRv },
  { pattern := 0x50#8, mask := 0xF8#8, entry := .plusReg .pushRv },
  { pattern := 0x58#8, mask := 0xF8#8, entry := .plusReg .popRv },
  { pattern := 0x64#8, mask := 0xFF#8, entry := .pfx .segFs },
  { pattern := 0x65#8, mask := 0xFF#8, entry := .pfx .segGs },
  { pattern := 0x66#8, mask := 0xFF#8, entry := .pfx .opSize },
  { pattern := 0x67#8, mask := 0xFF#8, entry := .pfx .addrSize },
  { pattern := 0x68#8, mask := 0xFF#8, entry := .iv .pushImmv },
  { pattern := 0x6A#8, mask := 0xFF#8, entry := .ib .pushImm8s },
  { pattern := 0x70#8, mask := 0xFF#8, entry := .rel8 .joRel8 },
  { pattern := 0x71#8, mask := 0xFF#8, entry := .rel8 .jnoRel8 },
  { pattern := 0x72#8, mask := 0xFF#8, entry := .rel8 .jbRel8 },
  { pattern := 0x73#8, mask := 0xFF#8, entry := .rel8 .jaeRel8 },
  { pattern := 0x74#8, mask := 0xFF#8, entry := .rel8 .jeRel8 },
  { pattern := 0x75#8, mask := 0xFF#8, entry := .rel8 .jneRel8 },
  { pattern := 0x76#8, mask := 0xFF#8, entry := .rel8 .jbeRel8 },
  { pattern := 0x77#8, mask := 0xFF#8, entry := .rel8 .jaRel8 },
  { pattern := 0x78#8, mask := 0xFF#8, entry := .rel8 .jsRel8 },
  { pattern := 0x79#8, mask := 0xFF#8, entry := .rel8 .jnsRel8 },
  { pattern := 0x7A#8, mask := 0xFF#8, entry := .rel8 .jpRel8 },
  { pattern := 0x7B#8, mask := 0xFF#8, entry := .rel8 .jnpRel8 },
  { pattern := 0x7C#8, mask := 0xFF#8, entry := .rel8 .jlRel8 },
  { pattern := 0x7D#8, mask := 0xFF#8, entry := .rel8 .jgeRel8 },
  { pattern := 0x7E#8, mask := 0xFF#8, entry := .rel8 .jleRel8 },
  { pattern := 0x7F#8, mask := 0xFF#8, entry := .rel8 .jgRel8 }]

/-- The rows of the primary table for first bytes 80 to BF (30_encoding.md R120 to R134). -/
def primaryRows80 : List Row := [
  { pattern := 0x81#8, mask := 0xFF#8, entry := .group group81 },
  { pattern := 0x83#8, mask := 0xFF#8, entry := .group group83 },
  { pattern := 0x84#8, mask := 0xFF#8, entry := .modrm fun r d => .testRm8R8 d r },
  { pattern := 0x85#8, mask := 0xFF#8, entry := .modrm fun r d => .testRmvRv d r },
  { pattern := 0x88#8, mask := 0xFF#8, entry := .modrm fun r d => .movRm8R8 d r },
  { pattern := 0x89#8, mask := 0xFF#8, entry := .modrm fun r d => .movRmvRv d r },
  { pattern := 0x8A#8, mask := 0xFF#8, entry := .modrm .movR8Rm8 },
  { pattern := 0x8B#8, mask := 0xFF#8, entry := .modrm .movRvRmv },
  { pattern := 0x8D#8, mask := 0xFF#8, entry := .modrmMem .lea },
  { pattern := 0x8F#8, mask := 0xFF#8, entry := .modrm .popRmv },
  { pattern := 0xA8#8, mask := 0xFF#8, entry := .ib .testAlImm8 },
  { pattern := 0xA9#8, mask := 0xFF#8, entry := .iv .testEaxImmv },
  { pattern := 0xAB#8, mask := 0xFF#8, entry := .nullary .stos },
  { pattern := 0xB0#8, mask := 0xF8#8, entry := .plusRegIb .movR8Imm8 },
  { pattern := 0xB8#8, mask := 0xF8#8, entry := .plusRegIv .movRvImmv }]

/-- The rows of the primary table for first bytes C0 to FF (30_encoding.md R120 to R134). -/
def primaryRowsC0 : List Row := [
  { pattern := 0xC1#8, mask := 0xFF#8, entry := .group groupC1 },
  { pattern := 0xC3#8, mask := 0xFF#8, entry := .nullary .ret },
  { pattern := 0xC6#8, mask := 0xFF#8, entry := .modrmIb .movRm8Imm8 },
  { pattern := 0xC7#8, mask := 0xFF#8, entry := .modrmIv .movRmvImmv },
  { pattern := 0xC9#8, mask := 0xFF#8, entry := .nullary .leave },
  { pattern := 0xCD#8, mask := 0xFF#8, entry := .ib .intImm8 },
  { pattern := 0xD1#8, mask := 0xFF#8, entry := .group groupD1 },
  { pattern := 0xD3#8, mask := 0xFF#8, entry := .group groupD3 },
  { pattern := 0xE4#8, mask := 0xFF#8, entry := .ib .inAlImm8 },
  { pattern := 0xE6#8, mask := 0xFF#8, entry := .ib .outImm8Al },
  { pattern := 0xE8#8, mask := 0xFF#8, entry := .rel32 .callRel32 },
  { pattern := 0xE9#8, mask := 0xFF#8, entry := .rel32 .jmpRel32 },
  { pattern := 0xEB#8, mask := 0xFF#8, entry := .rel8 .jmpRel8 },
  { pattern := 0xEC#8, mask := 0xFF#8, entry := .nullary .inAlDx },
  { pattern := 0xEE#8, mask := 0xFF#8, entry := .nullary .outDxAl },
  { pattern := 0xF0#8, mask := 0xFF#8, entry := .pfx .lock },
  { pattern := 0xF2#8, mask := 0xFF#8, entry := .pfx .repnz },
  { pattern := 0xF3#8, mask := 0xFF#8, entry := .pfx .repz },
  { pattern := 0xF7#8, mask := 0xFF#8, entry := .group groupF7 },
  { pattern := 0xFF#8, mask := 0xFF#8, entry := .group groupFF }]

/-- The primary table (49_dispatch.md R470): one row per mapped first byte or range of first bytes. -/
def primaryTable : List Row :=
  primaryRows00 ++ primaryRows40 ++ primaryRows80 ++ primaryRowsC0

/-- The second table, keyed by the byte after 0x0F (49_dispatch.md R471, 30_encoding.md R133). -/
def secondTable : List Row := [
  { pattern := 0x80#8, mask := 0xFF#8, entry := .rel32 .joRel32 },
  { pattern := 0x81#8, mask := 0xFF#8, entry := .rel32 .jnoRel32 },
  { pattern := 0x82#8, mask := 0xFF#8, entry := .rel32 .jbRel32 },
  { pattern := 0x83#8, mask := 0xFF#8, entry := .rel32 .jaeRel32 },
  { pattern := 0x84#8, mask := 0xFF#8, entry := .rel32 .jeRel32 },
  { pattern := 0x85#8, mask := 0xFF#8, entry := .rel32 .jneRel32 },
  { pattern := 0x86#8, mask := 0xFF#8, entry := .rel32 .jbeRel32 },
  { pattern := 0x87#8, mask := 0xFF#8, entry := .rel32 .jaRel32 },
  { pattern := 0x88#8, mask := 0xFF#8, entry := .rel32 .jsRel32 },
  { pattern := 0x89#8, mask := 0xFF#8, entry := .rel32 .jnsRel32 },
  { pattern := 0x8A#8, mask := 0xFF#8, entry := .rel32 .jpRel32 },
  { pattern := 0x8B#8, mask := 0xFF#8, entry := .rel32 .jnpRel32 },
  { pattern := 0x8C#8, mask := 0xFF#8, entry := .rel32 .jlRel32 },
  { pattern := 0x8D#8, mask := 0xFF#8, entry := .rel32 .jgeRel32 },
  { pattern := 0x8E#8, mask := 0xFF#8, entry := .rel32 .jleRel32 },
  { pattern := 0x8F#8, mask := 0xFF#8, entry := .rel32 .jgRel32 }]

/-- The row a byte selects, if any (30_encoding.md R111). -/
def lookup (t : List Row) (b : Byte) : Option Entry :=
  match t with
  | [] => none
  | r :: t => if b &&& r.mask = r.pattern then some r.entry else lookup t b

/-! ## The decoder -/

/-- A sub-handler fetches its immediate, if any (49_dispatch.md R472). -/
def runSub (f : Fetch) (m : DecodeMode) (d : Rm) (next : Nat) : SubEntry → Decoded
  | .rm mk => .ok (mk d) next
  | .rmIb mk => withByte f next fun v => .ok (mk d v) (next + 1)
  | .rmIv mk => withField f next m.ivBytes fun v => .ok (mk d v) (next + m.ivBytes)

/-- What an entry does with the bytes from offset `off` on, `b` being the opcode byte. The order of events is
49_dispatch.md R490: ModRM, SIB and displacement; group dispatch; refusals; immediate. An entry of the second table is
never an escape (49_dispatch.md R471). -/
def runEntry (f : Fetch) (m : DecodeMode) (b : Byte) (off : Nat) : Entry → Decoded
  | .pfx i => .pfxByte i
  | .escape => .unmapped [b]
  | .nullary i => .ok i off
  | .plusReg mk => .ok (mk (b.extractLsb' 0 3)) off
  | .ib mk => withByte f off fun v => .ok (mk v) (off + 1)
  | .plusRegIb mk => withByte f off fun v => .ok (mk (b.extractLsb' 0 3) v) (off + 1)
  | .plusRegIv mk => withField f off m.ivBytes fun v => .ok (mk (b.extractLsb' 0 3) v) (off + m.ivBytes)
  | .iv mk => withField f off m.ivBytes fun v => .ok (mk v) (off + m.ivBytes)
  | .rel8 mk => if m.opovr then .refused .opsize16Transfer else withByte f off fun v => .ok (mk v) (off + 1)
  | .rel32 mk => if m.opovr then .refused .opsize16Transfer else withField f off 4 fun v => .ok (mk v) (off + 4)
  | .modrm mk => withModrm f m off fun _ reg d next => .ok (mk reg d) next
  | .modrmIb mk => withModrm f m off fun _ reg d next => withByte f next fun v => .ok (mk reg d v) (next + 1)
  | .modrmIv mk => withModrm f m off fun _ reg d next =>
      withField f next m.ivBytes fun v => .ok (mk reg d v) (next + m.ivBytes)
  | .modrmMem mk => withModrm f m off fun _ reg d next =>
      match d with
      | .reg _ => .refused .leaReg
      | .mem o => .ok (mk reg o) next
  | .group subs => withModrm f m off fun modrmByte reg d next =>
      match subs.getD reg.toNat none with
      | some s => runSub f m d next s
      | none => .unmapped [b, modrmByte]

/-- Decode the bytes that `f` fetches (49_dispatch.md R470, R471, R485): first byte, second byte after 0x0F. -/
def decode (f : Fetch) (m : DecodeMode) : Decoded :=
  withByte f 0 fun b =>
    match lookup primaryTable b with
    | none => .unmapped [b]
    | some .escape => withByte f 1 fun b2 =>
        match lookup secondTable b2 with
        | none => .unmapped [b, b2]
        | some e => runEntry f m b2 2 e
    | some e => runEntry f m b 1 e

/-- Decode a list of bytes. -/
def decodeBytes (m : DecodeMode) (bs : List Byte) : Decoded := decode (listFetch bs) m

/-- The longest instruction without its prefixes (30_encoding.md R140) is 11 bytes; the words of the opcode table are laid
out in this many bytes. -/
def tableWordBytes : Nat := 16

/-- The bytes of a number, lowest first. -/
def natBytes : Nat → Nat → List Byte
  | 0, _ => []
  | n + 1, w => BitVec.ofNat 8 w :: natBytes n (w / 256)

/-- The bytes of an instruction of spec/opcode_table.json: the `nbits` bits of `w`, first byte lowest, then zeros. -/
def tableBytes (nbits w : Nat) : List Byte := natBytes tableWordBytes (w % 2 ^ nbits)

/-- The instruction the decoder reads from an instruction of spec/opcode_table.json whose first `nbits` bits are `w`. -/
def decodeTableWord (nbits w : Nat) : Option Instr :=
  match decodeBytes .default (tableBytes nbits w) with
  | .ok i _ => some i
  | .pfxByte i => some i
  | .truncated _ _ => none
  | .unmapped _ => none
  | .refused _ => none

/-! ## The encoder -/

/-- A ModRM byte (30_encoding.md R105); a SIB byte has the same layout (30_encoding.md R106). -/
def packByte (hi : BitVec 2) (mid lo : BitVec 3) : Byte := hi ++ mid ++ lo

/-- ModRM, SIB and displacement of a memory operand with a reg field (41_addressing.md R189). -/
def encodeMem (reg : RegIdx) : MemOperand → List Byte
  | .base r => [packByte 0 reg r]
  | .disp32 d => packByte 0 reg 5 :: leBytes 4 d
  | .baseDisp8 r d => [packByte 1 reg r, d]
  | .baseDisp32 r d => packByte 2 reg r :: leBytes 4 d
  | .sib sc ix bs => [packByte 0 reg 4, packByte sc ix bs]
  | .sibDisp8 sc ix bs d => [packByte 1 reg 4, packByte sc ix bs, d]
  | .sibDisp32 sc ix bs d => packByte 2 reg 4 :: packByte sc ix bs :: leBytes 4 d

/-- ModRM, SIB and displacement of a register-or-memory operand with a reg field. -/
def encodeRm (reg : RegIdx) : Rm → List Byte
  | .reg r => [packByte 3 reg r]
  | .mem o => encodeMem reg o

/-- An opcode byte whose low three bits are a register (30_encoding.md R103). -/
def plusR (opcode : Byte) (r : RegIdx) : Byte := opcode + r.setWidth 8

/-- An immediate of kind `iv` (30_encoding.md R108). -/
def encodeIv (m : DecodeMode) (imm : Word) : List Byte := leBytes m.ivBytes imm

/-- The bytes of an instruction, without prefixes, from the tables of 30_encoding.md R120 to R134. -/
def encode (m : DecodeMode) : Instr → List Byte
  | .addRm8R8 d r => 0x00#8 :: encodeRm r d
  | .addRmvRv d r => 0x01#8 :: encodeRm r d
  | .addR8Rm8 r d => 0x02#8 :: encodeRm r d
  | .addRvRmv r d => 0x03#8 :: encodeRm r d
  | .addAlImm8 imm => [0x04#8, imm]
  | .addEaxImmv imm => 0x05#8 :: encodeIv m imm
  | .addRmvImmv d imm => 0x81#8 :: (encodeRm 0 d ++ encodeIv m imm)
  | .addRmvImm8s d imm => 0x83#8 :: (encodeRm 0 d ++ [imm])
  | .orRm8R8 d r => 0x08#8 :: encodeRm r d
  | .orRmvRv d r => 0x09#8 :: encodeRm r d
  | .orR8Rm8 r d => 0x0A#8 :: encodeRm r d
  | .orRvRmv r d => 0x0B#8 :: encodeRm r d
  | .orAlImm8 imm => [0x0C#8, imm]
  | .orEaxImmv imm => 0x0D#8 :: encodeIv m imm
  | .orRmvImmv d imm => 0x81#8 :: (encodeRm 1 d ++ encodeIv m imm)
  | .orRmvImm8s d imm => 0x83#8 :: (encodeRm 1 d ++ [imm])
  | .andRm8R8 d r => 0x20#8 :: encodeRm r d
  | .andRmvRv d r => 0x21#8 :: encodeRm r d
  | .andR8Rm8 r d => 0x22#8 :: encodeRm r d
  | .andRvRmv r d => 0x23#8 :: encodeRm r d
  | .andAlImm8 imm => [0x24#8, imm]
  | .andEaxImmv imm => 0x25#8 :: encodeIv m imm
  | .andRmvImmv d imm => 0x81#8 :: (encodeRm 4 d ++ encodeIv m imm)
  | .andRmvImm8s d imm => 0x83#8 :: (encodeRm 4 d ++ [imm])
  | .subRm8R8 d r => 0x28#8 :: encodeRm r d
  | .subRmvRv d r => 0x29#8 :: encodeRm r d
  | .subR8Rm8 r d => 0x2A#8 :: encodeRm r d
  | .subRvRmv r d => 0x2B#8 :: encodeRm r d
  | .subAlImm8 imm => [0x2C#8, imm]
  | .subEaxImmv imm => 0x2D#8 :: encodeIv m imm
  | .subRmvImmv d imm => 0x81#8 :: (encodeRm 5 d ++ encodeIv m imm)
  | .subRmvImm8s d imm => 0x83#8 :: (encodeRm 5 d ++ [imm])
  | .xorRm8R8 d r => 0x30#8 :: encodeRm r d
  | .xorRmvRv d r => 0x31#8 :: encodeRm r d
  | .xorR8Rm8 r d => 0x32#8 :: encodeRm r d
  | .xorRvRmv r d => 0x33#8 :: encodeRm r d
  | .xorAlImm8 imm => [0x34#8, imm]
  | .xorEaxImmv imm => 0x35#8 :: encodeIv m imm
  | .xorRmvImmv d imm => 0x81#8 :: (encodeRm 6 d ++ encodeIv m imm)
  | .xorRmvImm8s d imm => 0x83#8 :: (encodeRm 6 d ++ [imm])
  | .cmpRm8R8 d r => 0x38#8 :: encodeRm r d
  | .cmpRmvRv d r => 0x39#8 :: encodeRm r d
  | .cmpR8Rm8 r d => 0x3A#8 :: encodeRm r d
  | .cmpRvRmv r d => 0x3B#8 :: encodeRm r d
  | .cmpAlImm8 imm => [0x3C#8, imm]
  | .cmpEaxImmv imm => 0x3D#8 :: encodeIv m imm
  | .cmpRmvImmv d imm => 0x81#8 :: (encodeRm 7 d ++ encodeIv m imm)
  | .cmpRmvImm8s d imm => 0x83#8 :: (encodeRm 7 d ++ [imm])
  | .testRm8R8 d r => 0x84#8 :: encodeRm r d
  | .testRmvRv d r => 0x85#8 :: encodeRm r d
  | .testAlImm8 imm => [0xA8#8, imm]
  | .testEaxImmv imm => 0xA9#8 :: encodeIv m imm
  | .testRmvImmv d imm => 0xF7#8 :: (encodeRm 0 d ++ encodeIv m imm)
  | .notRmv d => 0xF7#8 :: encodeRm 2 d
  | .negRmv d => 0xF7#8 :: encodeRm 3 d
  | .mulRmv d => 0xF7#8 :: encodeRm 4 d
  | .imulRmv d => 0xF7#8 :: encodeRm 5 d
  | .divRmv d => 0xF7#8 :: encodeRm 6 d
  | .idivRmv d => 0xF7#8 :: encodeRm 7 d
  | .incRv r => [plusR 0x40#8 r]
  | .incRmv d => 0xFF#8 :: encodeRm 0 d
  | .decRv r => [plusR 0x48#8 r]
  | .decRmv d => 0xFF#8 :: encodeRm 1 d
  | .rolRmvImm8 d imm => 0xC1#8 :: (encodeRm 0 d ++ [imm])
  | .rolRmvOne d => 0xD1#8 :: encodeRm 0 d
  | .rolRmvCl d => 0xD3#8 :: encodeRm 0 d
  | .rorRmvImm8 d imm => 0xC1#8 :: (encodeRm 1 d ++ [imm])
  | .rorRmvOne d => 0xD1#8 :: encodeRm 1 d
  | .rorRmvCl d => 0xD3#8 :: encodeRm 1 d
  | .rclRmvImm8 d imm => 0xC1#8 :: (encodeRm 2 d ++ [imm])
  | .rclRmvOne d => 0xD1#8 :: encodeRm 2 d
  | .rclRmvCl d => 0xD3#8 :: encodeRm 2 d
  | .rcrRmvImm8 d imm => 0xC1#8 :: (encodeRm 3 d ++ [imm])
  | .rcrRmvOne d => 0xD1#8 :: encodeRm 3 d
  | .rcrRmvCl d => 0xD3#8 :: encodeRm 3 d
  | .shlRmvImm8 d imm => 0xC1#8 :: (encodeRm 4 d ++ [imm])
  | .shlRmvOne d => 0xD1#8 :: encodeRm 4 d
  | .shlRmvCl d => 0xD3#8 :: encodeRm 4 d
  | .shrRmvImm8 d imm => 0xC1#8 :: (encodeRm 5 d ++ [imm])
  | .shrRmvOne d => 0xD1#8 :: encodeRm 5 d
  | .shrRmvCl d => 0xD3#8 :: encodeRm 5 d
  | .sarRmvImm8 d imm => 0xC1#8 :: (encodeRm 7 d ++ [imm])
  | .sarRmvOne d => 0xD1#8 :: encodeRm 7 d
  | .sarRmvCl d => 0xD3#8 :: encodeRm 7 d
  | .movRm8R8 d r => 0x88#8 :: encodeRm r d
  | .movRmvRv d r => 0x89#8 :: encodeRm r d
  | .movR8Rm8 r d => 0x8A#8 :: encodeRm r d
  | .movRvRmv r d => 0x8B#8 :: encodeRm r d
  | .movR8Imm8 r imm => [plusR 0xB0#8 r, imm]
  | .movRvImmv r imm => plusR 0xB8#8 r :: encodeIv m imm
  | .movRm8Imm8 x d imm => 0xC6#8 :: (encodeRm x d ++ [imm])
  | .movRmvImmv x d imm => 0xC7#8 :: (encodeRm x d ++ encodeIv m imm)
  | .lea r m' => 0x8D#8 :: encodeMem r m'
  | .pushRv r => [plusR 0x50#8 r]
  | .pushImmv imm => 0x68#8 :: encodeIv m imm
  | .pushImm8s imm => [0x6A#8, imm]
  | .pushRmv d => 0xFF#8 :: encodeRm 6 d
  | .popRv r => [plusR 0x58#8 r]
  | .popRmv x d => 0x8F#8 :: encodeRm x d
  | .leave => [0xC9#8]
  | .jmpRel8 rel => [0xEB#8, rel]
  | .jmpRel32 rel => 0xE9#8 :: leBytes 4 rel
  | .joRel8 rel => [0x70#8, rel]
  | .jnoRel8 rel => [0x71#8, rel]
  | .jbRel8 rel => [0x72#8, rel]
  | .jaeRel8 rel => [0x73#8, rel]
  | .jeRel8 rel => [0x74#8, rel]
  | .jneRel8 rel => [0x75#8, rel]
  | .jbeRel8 rel => [0x76#8, rel]
  | .jaRel8 rel => [0x77#8, rel]
  | .jsRel8 rel => [0x78#8, rel]
  | .jnsRel8 rel => [0x79#8, rel]
  | .jpRel8 rel => [0x7A#8, rel]
  | .jnpRel8 rel => [0x7B#8, rel]
  | .jlRel8 rel => [0x7C#8, rel]
  | .jgeRel8 rel => [0x7D#8, rel]
  | .jleRel8 rel => [0x7E#8, rel]
  | .jgRel8 rel => [0x7F#8, rel]
  | .joRel32 rel => 0x0F#8 :: 0x80#8 :: leBytes 4 rel
  | .jnoRel32 rel => 0x0F#8 :: 0x81#8 :: leBytes 4 rel
  | .jbRel32 rel => 0x0F#8 :: 0x82#8 :: leBytes 4 rel
  | .jaeRel32 rel => 0x0F#8 :: 0x83#8 :: leBytes 4 rel
  | .jeRel32 rel => 0x0F#8 :: 0x84#8 :: leBytes 4 rel
  | .jneRel32 rel => 0x0F#8 :: 0x85#8 :: leBytes 4 rel
  | .jbeRel32 rel => 0x0F#8 :: 0x86#8 :: leBytes 4 rel
  | .jaRel32 rel => 0x0F#8 :: 0x87#8 :: leBytes 4 rel
  | .jsRel32 rel => 0x0F#8 :: 0x88#8 :: leBytes 4 rel
  | .jnsRel32 rel => 0x0F#8 :: 0x89#8 :: leBytes 4 rel
  | .jpRel32 rel => 0x0F#8 :: 0x8A#8 :: leBytes 4 rel
  | .jnpRel32 rel => 0x0F#8 :: 0x8B#8 :: leBytes 4 rel
  | .jlRel32 rel => 0x0F#8 :: 0x8C#8 :: leBytes 4 rel
  | .jgeRel32 rel => 0x0F#8 :: 0x8D#8 :: leBytes 4 rel
  | .jleRel32 rel => 0x0F#8 :: 0x8E#8 :: leBytes 4 rel
  | .jgRel32 rel => 0x0F#8 :: 0x8F#8 :: leBytes 4 rel
  | .callRel32 rel => 0xE8#8 :: leBytes 4 rel
  | .callRm32 d => 0xFF#8 :: encodeRm 2 d
  | .ret => [0xC3#8]
  | .intImm8 v => [0xCD#8, v]
  | .stos => [0xAB#8]
  | .inAlImm8 port => [0xE4#8, port]
  | .inAlDx => [0xEC#8]
  | .outImm8Al port => [0xE6#8, port]
  | .outDxAl => [0xEE#8]
  | .segEs => [0x26#8]
  | .segCs => [0x2E#8]
  | .segSs => [0x36#8]
  | .segDs => [0x3E#8]
  | .segFs => [0x64#8]
  | .segGs => [0x65#8]
  | .opSize => [0x66#8]
  | .addrSize => [0x67#8]
  | .lock => [0xF0#8]
  | .repnz => [0xF2#8]
  | .repz => [0xF3#8]

end Sys2Proof
end

