-- ==== Sys2Proof/Config.lean ====
section
/-! DEFINITION. What the hardware leaves to its host or leaves unspecified: the capacity of memory, the unspecified bits,
and the host functions that IN, OUT and INT call. None of the opaque constants has a body: a theorem holds for every
value they may have. -/

namespace Sys2Proof

/-- One call out of the block, with its argument and the answer it got (20_memory.md R85, 00_scope.md R6). -/
inductive HostCall where
  /-- `port_in8(port)` answered `answer` (48_string_io.md R455). -/
  | portIn (port : BitVec 16) (answer : Byte)
  /-- `port_out8(port, data)` (48_string_io.md R455). -/
  | portOut (port : BitVec 16) (data : Byte)
  /-- `int_dispatch(vector)` answered handled or not (47_control_transfer.md R440). -/
  | intDispatch (vector : Byte) (handled : Bool)
  deriving DecidableEq, Repr

/-- All that the dispatcher called by INT may read (47_control_transfer.md R440: it may read everything):
registers, FLAGS at the EFLAGS positions, IP, PFX, memory, and what the host knows of its own calls. -/
structure HostView where
  regs : Vector Word 8
  flags : Word
  ip : Word
  pfx : BitVec 13
  capacity : Nat
  cells : List Host.Cell
  hostCalls : List HostCall
  deriving DecidableEq, Repr

/-- All that the dispatcher may answer and change (47_control_transfer.md R440): whether it handled the vector, new
general registers, a new FLAGS word, and bytes written to memory, in order. It cannot change IP or PFX. -/
structure HostReply where
  handled : Bool
  regs : Vector Word 8
  flags : Word
  writes : List Host.Cell
  deriving DecidableEq, Repr, Inhabited

namespace Config

/-- The default `MEM_CAPACITY`, 10 MiB (00_scope.md R9, 92_eei_decisions.md D10). -/
def defaultCapacity : Nat := 0xA00000

/-- `unspecified_bit()`, the value of the n-th one drawn (93_implementation_defined.md U1). DESIGN CHOICE, safe, log 3:
an opaque constant, so nothing can be proved of its value. -/
opaque unspecifiedBit : Nat → Bool

/-- `port_in8(port)` (48_string_io.md R455): the answer may differ at each call, so it depends on the calls made
before. DESIGN CHOICE, safe, log 4. -/
opaque portIn8 : List HostCall → BitVec 16 → Byte

/-- `int_dispatch(v)` (47_control_transfer.md R440, 92_eei_decisions.md D17). DESIGN CHOICE, safe, log 5. -/
opaque intDispatch : Byte → HostView → HostReply

end Config

end Sys2Proof
end

