-- ==== Sys2Proof/Machine/State.lean ====
section
/-! DEFINITION. The machine state, the faults and the refusals: plain data, holding all the state the spec gives the
machine (10_state.md R20) and four fields of the model's own (ipStart, notice, hostCalls, freeCount). -/

namespace Sys2Proof.Machine

open Sys2Proof

/-- FLAGS, as nine separate Booleans (10_state.md R32, R33; log 18). -/
structure Flags where
  /-- carry, CF, EFLAGS bit 0 -/
  cf : Bool
  /-- parity, PF, bit 2 -/
  pf : Bool
  /-- auxiliary carry, AF, bit 4 -/
  af : Bool
  /-- zero, ZF, bit 6 -/
  zf : Bool
  /-- sign, SF, bit 7 -/
  sf : Bool
  /-- trap, TF, bit 8: stored only (10_state.md R35) -/
  tf : Bool
  /-- interrupt-enable, IF, bit 9: stored only (10_state.md R35) -/
  ifl : Bool
  /-- direction, DF, bit 10: read by STOS only (10_state.md R36) -/
  df : Bool
  /-- overflow, OF, bit 11 -/
  ofl : Bool
  deriving DecidableEq, Repr

/-- The Prefix/Mode State PFX: thirteen Booleans in the order of 10_state.md R38 (R40). -/
structure PrefixState where
  segEs : Bool
  segCs : Bool
  segSs : Bool
  segDs : Bool
  segFs : Bool
  segGs : Bool
  /-- OPOVR, operand-size override active -/
  opovr : Bool
  /-- ADOVR, address-size override active -/
  adovr : Bool
  lock : Bool
  /-- REPNZ, sticky (10_state.md R39) -/
  repnz : Bool
  /-- REPZ, sticky (10_state.md R39) -/
  repz : Bool
  /-- OS32, 32-bit operand size -/
  os32 : Bool
  /-- AS32, 32-bit address size -/
  as32 : Bool
  deriving DecidableEq, Repr

/-- MEM (10_state.md R43): `capacity` bytes. A byte is listed in `cells` when it is not zero; a byte not listed reads as
zero, the content after construction (10_state.md R49). The canonical form is `Memory.wf` of Machine/Ops.lean. -/
structure Memory where
  capacity : Nat
  cells : List Host.Cell
  deriving DecidableEq, Repr

/-- The direction of a memory access (60_exceptions.md R500). -/
inductive Access where
  | read
  | write
  deriving DecidableEq, Repr

/-- The notice `UnknownInterruptVector(vector, ip_start)` (60_exceptions.md R506). -/
structure Notice where
  vector : Byte
  ipStart : Word
  deriving DecidableEq, Repr

/-- The four fault kinds, each with the record of 60_exceptions.md R512. A fault ends the step and carries no state: the
state before the step stands (60_exceptions.md R505). Safe: the spec names every one of them. -/
inductive Fault where
  /-- Raised by every fetch, read, write, push and pop outside memory (60_exceptions.md R501). Safe. -/
  | outOfBoundsMemoryAccess (ipStart : Word) (addr : Word) (n : Nat) (dir : Access)
  /-- Raised by decoding an unmapped encoding, with the offending bytes (60_exceptions.md R502). Safe. -/
  | unimplementedOpcode (ipStart : Word) (bytes : List Byte)
  /-- Raised by DIV and IDIV with a zero divisor (60_exceptions.md R503). Safe. -/
  | divideByZero (ipStart : Word)
  /-- Raised by DIV and IDIV when the quotient does not fit (60_exceptions.md R504). Safe. -/
  | divisionOverflow (ipStart : Word)
  deriving DecidableEq, Repr

/-- The refusals: byte sequences to which the spec gives no outcome (00_scope.md R8, 30_encoding.md R139; log 11). -/
inductive Refusal where
  /-- Raised by an arm of `exec` that has no meaning yet. Safe. -/
  | notModelled (mnemonic : String)
  /-- Raised by prefix 0x67 with a memory operand, `refuse(addr16)` (41_addressing.md R184). Safe. -/
  | addr16
  /-- Raised by prefix 0x67 before STOS, `refuse(addr16_stos)` (48_string_io.md R451). Safe. -/
  | addr16Stos
  /-- Raised by prefix 0x66 before a control transfer, `refuse(opsize16_transfer)` (47_control_transfer.md R441). Safe. -/
  | opsize16Transfer
  /-- Raised by prefix 0x66 before LEAVE, `refuse(opsize16_leave)` (46_stack.md R382). Safe. -/
  | opsize16Leave
  /-- Raised by LEA with mod = 3, `refuse(lea_reg)` (45_data_movement.md R359). Safe. -/
  | leaReg
  /-- Raised by the step on a memory of 2^32 bytes that holds nothing but prefix bytes from IP round to IP: the loop of
  49_dispatch.md R476 has no end there, so the step has no result (log 12). Safe. -/
  | prefixRunNeverEnds
  deriving DecidableEq, Repr

/-- The machine state (10_state.md R20). -/
structure State where
  /-- the Register File x[0..7] (10_state.md R21): EAX, ECX, EDX, EBX, ESP, EBP, ESI, EDI -/
  regs : Vector Word 8
  /-- FLAGS (10_state.md R32) -/
  flags : Flags
  /-- IP; `pc` while an instruction runs (10_state.md R28) -/
  ip : Word
  /-- PFX (10_state.md R38) -/
  pfx : PrefixState
  /-- MEM and its capacity (10_state.md R43, 00_scope.md R9) -/
  mem : Memory
  /-- the model's own: `ip_start` of the step in progress (49_dispatch.md R485; log 8) -/
  ipStart : Word
  /-- the model's own: the notice the last step returned, if any (49_dispatch.md R486; log 8) -/
  notice : Option Notice
  /-- the model's own: the calls made to the host so far, oldest first (20_memory.md R85; log 7) -/
  hostCalls : List HostCall
  /-- the model's own: how many unspecified bits have been drawn (00_scope.md R11; log 3) -/
  freeCount : Nat
  deriving DecidableEq, Repr

/-- PFX between steps when no repeat prefix is pending (10_state.md R39, R49). -/
def PrefixState.initial : PrefixState :=
  { segEs := false, segCs := false, segSs := false, segDs := false, segFs := false, segGs := false,
    opovr := false, adovr := false, lock := false, repnz := false, repz := false, os32 := true, as32 := true }

/-- All nine flags clear. -/
def Flags.clear : Flags :=
  { cf := false, pf := false, af := false, zf := false, sf := false, tf := false, ifl := false, df := false, ofl := false }

/-- Construction (70_reset_and_hazards.md R540, 10_state.md R49): memory zero, PFX initial, and the registers, FLAGS and
IP that the host supplies. -/
def State.launch (capacity : Nat) (regs : Vector Word 8) (flags : Flags) (ip : Word) : State :=
  { regs := regs, flags := flags, ip := ip, pfx := .initial, mem := { capacity := capacity, cells := [] },
    ipStart := ip, notice := none, hostCalls := [], freeCount := 0 }

/-- The machine right after reset: construction with the default capacity (00_scope.md R9). The spec leaves the registers,
FLAGS and IP to the host; they take the suggested launch values of 70_reset_and_hazards.md R545. DESIGN CHOICE, unsafe,
log 1, log 2. -/
def State.reset : State :=
  .launch Config.defaultCapacity #v[0, 0, 0, 0, 0x8000, 0, 0, 0] .clear 0x1000

end Sys2Proof.Machine
end

