-- ==== Sys2Proof/Machine/Ops.lean ====
section
/-! DEFINITION. The named operations over registers, memory, the stack, PFX, the unspecified bits and the host, and the
raising of a fault, from which every meaning is built. -/

namespace Sys2Proof.Machine

open Sys2Proof

/-! ## Outcomes -/

/-- An answer, a fault or a refusal. -/
abbrev Out (α : Type) := Host.Outcome α Fault Refusal

/-- Go on with the answer; a fault or a refusal ends the instruction (00_scope.md R12, 60_exceptions.md R505). -/
def chain {α β : Type} (o : Out α) (k : α → Out β) : Out β :=
  match o with
  | .next a => k a
  | .fault r => .fault r
  | .refused r => .refused r

/-- What the decoder refused, as a refusal of the step (30_encoding.md R139). -/
def refusalOf : DecodeRefusal → Refusal
  | .addr16 => .addr16
  | .opsize16Transfer => .opsize16Transfer
  | .leaReg => .leaReg

/-! ## The register file (10_state.md R21 to R26) -/

/-- x[i], 32 bits (10_state.md R21). -/
def State.reg (s : State) (i : RegIdx) : Word := s.regs[i.toNat]

/-- x[i] <- v (10_state.md R21). -/
def State.setReg (s : State) (i : RegIdx) (v : Word) : State := { s with regs := s.regs.set i.toNat v }

/-- The register that an 8-bit index is a view of (10_state.md R24): 4 to 7 are AH, CH, DH, BH of registers 0 to 3. -/
def byteOwner (i : RegIdx) : RegIdx := if i.toNat < 4 then i else i - 4#3

/-- x8[i], x16[i] or x[i] (10_state.md R23 to R25). -/
def readReg : (w : Width) → RegIdx → State → BitVec w.bits
  | .w8, i, s => if i.toNat < 4 then (s.reg i).extractLsb' 0 8 else (s.reg (byteOwner i)).extractLsb' 8 8
  | .w16, i, s => (s.reg i).extractLsb' 0 16
  | .w32, i, s => s.reg i

/-- x8[i] <- v, x16[i] <- v or x[i] <- v: the other bits of the owning register are preserved (10_state.md R23 to R26). -/
def writeReg : (w : Width) → RegIdx → BitVec w.bits → State → State
  | .w8, i, v, s =>
    let o := s.reg (byteOwner i)
    if i.toNat < 4 then s.setReg (byteOwner i) ((o.extractLsb' 8 24 : BitVec 24) ++ (v : BitVec 8))
    else s.setReg (byteOwner i) ((o.extractLsb' 16 16 : BitVec 16) ++ (v : BitVec 8) ++ (o.extractLsb' 0 8 : BitVec 8))
  | .w16, i, v, s => s.setReg i (((s.reg i).extractLsb' 16 16 : BitVec 16) ++ (v : BitVec 16))
  | .w32, i, v, s => s.setReg i v

/-! ## Updates of the other fields -/

/-- FLAGS <- f. -/
def State.setFlags (s : State) (f : Flags) : State := { s with flags := f }

/-- pc <- v. -/
def State.setIp (s : State) (v : Word) : State := { s with ip := v }

/-- MEM <- m. -/
def State.setMem (s : State) (m : Memory) : State := { s with mem := m }

/-- PFX <- p. -/
def State.setPfx (s : State) (p : PrefixState) : State := { s with pfx := p }

/-- Report a notice (60_exceptions.md R506). -/
def State.setNotice (s : State) (n : Option Notice) : State := { s with notice := n }

/-- Remember `ip_start` (49_dispatch.md R485). -/
def State.setIpStart (s : State) (v : Word) : State := { s with ipStart := v }

/-- Record a call to the host (20_memory.md R85). -/
def State.logCall (s : State) (c : HostCall) : State := { s with hostCalls := s.hostCalls ++ [c] }

/-- Count `n` more unspecified bits as drawn (00_scope.md R11). -/
def State.drawn (s : State) (n : Nat) : State := { s with freeCount := s.freeCount + n }

/-- The `k`-th next `unspecified_bit()` (00_scope.md R11, 93_implementation_defined.md U1; log 3, log 20). -/
def State.unspecified (s : State) (k : Nat) : Bool := Config.unspecifiedBit (s.freeCount + k)

/-! ## Effective sizes (10_state.md R41) -/

/-- osz, the operand width of the forms marked v. -/
def State.osz (s : State) : Width := if s.pfx.os32 then .w32 else .w16

/-- What decoding depends on (30_encoding.md R101). -/
def State.decodeMode (s : State) : DecodeMode := { os32 := s.pfx.os32, as32 := s.pfx.as32, opovr := s.pfx.opovr }

/-! ## Memory (20_memory.md R60 to R63) -/

/-- The byte a list of cells gives an address; an unlisted address reads as zero (10_state.md R49). -/
def cellsGet : List Host.Cell → Nat → Byte
  | [], _ => 0
  | (k, v) :: cs, a => if k = a then v else cellsGet cs a

/-- The cells without an address. -/
def cellsErase (a : Nat) (cs : List Host.Cell) : List Host.Cell := cs.filter fun c => c.1 != a

/-- A cell put in the place its address has in rising order. -/
def cellsInsert (a : Nat) (v : Byte) : List Host.Cell → List Host.Cell
  | [] => [(a, v)]
  | (k, w) :: cs => if a < k then (a, v) :: (k, w) :: cs else (k, w) :: cellsInsert a v cs

/-- One byte stored: a zero is not listed, so that equal memories are equal data. -/
def cellsSet (cs : List Host.Cell) (a : Nat) (v : Byte) : List Host.Cell :=
  if v = 0 then cellsErase a cs else cellsInsert a v (cellsErase a cs)

/-- MEM[a] (10_state.md R43). -/
def Memory.byte (m : Memory) (a : Nat) : Byte := cellsGet m.cells a

/-- MEM[a] <- v. -/
def Memory.setByte (m : Memory) (a : Nat) (v : Byte) : Memory := { m with cells := cellsSet m.cells a v }

/-- The bounds check of 20_memory.md R61, in unbounded integers. -/
def Memory.inBounds (m : Memory) (a n : Nat) : Bool := decide (a + n ≤ m.capacity)

/-- The `n` bytes from address `a` on. -/
def Memory.bytes (m : Memory) (a : Nat) : Nat → List Byte
  | 0 => []
  | n + 1 => m.byte a :: m.bytes (a + 1) n

/-- `MemWrite` past its check (20_memory.md R63): the bytes in ascending order. -/
def Memory.writeBytes (m : Memory) (a : Nat) : List Byte → Memory
  | [] => m
  | b :: bs => (m.setByte a b).writeBytes (a + 1) bs

/-- `MemRead` past its check (20_memory.md R62): little-endian. -/
def Memory.read (m : Memory) (a : Nat) (w : Width) : BitVec w.bits := (leValue (m.bytes a w.bytes)).setWidth w.bits

/-- `MemWrite` past its check (20_memory.md R63): little-endian. -/
def Memory.write (m : Memory) (a : Nat) (w : Width) (v : BitVec w.bits) : Memory :=
  m.writeBytes a (leBytes w.bytes (v.setWidth 32))

/-- Whether addresses rise strictly, every listed byte is non-zero, and every address is from `lo` to below `cap`. -/
def cellsWf (cap lo : Nat) : List Host.Cell → Bool
  | [] => true
  | (k, v) :: cs => decide (lo ≤ k) && decide (k < cap) && v != 0 && cellsWf cap (k + 1) cs

/-- The canonical form of a memory: equal memories are equal data. -/
def Memory.wf (m : Memory) : Bool := cellsWf m.capacity 0 m.cells

/-! ## Raising a fault (60_exceptions.md R500, R505, R508, R512)

Taking an exception on this hardware is ending the step with the error record: nothing is pushed, no vector is read, IP
is not changed to a handler (60_exceptions.md R508), and the state is that before the step (R505), which the caller of
the step still holds. There is no return from an exception inside the machine (R509). -/

/-- Raise `OutOfBoundsMemoryAccess(addr, n, dir)` (60_exceptions.md R501). -/
def raiseOutOfBounds {α : Type} (s : State) (addr : Word) (n : Nat) (dir : Access) : Out α :=
  .fault (.outOfBoundsMemoryAccess s.ipStart addr n dir)

/-- Raise `UnimplementedOpcode(bytes)` (60_exceptions.md R502). -/
def raiseUnimplemented {α : Type} (s : State) (bytes : List Byte) : Out α :=
  .fault (.unimplementedOpcode s.ipStart bytes)

/-- Raise `DivideByZero` (60_exceptions.md R503). -/
def raiseDivideByZero {α : Type} (s : State) : Out α := .fault (.divideByZero s.ipStart)

/-- Raise `DivisionOverflow` (60_exceptions.md R504). -/
def raiseDivisionOverflow {α : Type} (s : State) : Out α := .fault (.divisionOverflow s.ipStart)

/-! ## The memory accessors and the stack -/

/-- `MemRead(addr, N/8)` (20_memory.md R61, R62). -/
def load (w : Width) (addr : Word) (s : State) : Out (BitVec w.bits) :=
  if s.mem.inBounds addr.toNat w.bytes then .next (s.mem.read addr.toNat w)
  else raiseOutOfBounds s addr w.bytes .read

/-- `MemWrite(addr, N/8, v)` (20_memory.md R61, R63). -/
def store (w : Width) (addr : Word) (v : BitVec w.bits) (s : State) : Out State :=
  if s.mem.inBounds addr.toNat w.bytes then .next (s.setMem (s.mem.write addr.toNat w v))
  else raiseOutOfBounds s addr w.bytes .write

/-- ESP. -/
abbrev esp : RegIdx := 4#3

/-- `push_N(v)` (20_memory.md R70): the pointer moves before the write. -/
def push (w : Width) (v : BitVec w.bits) (s : State) : Out State :=
  let s1 := s.setReg esp (s.reg esp - BitVec.ofNat 32 w.bytes)
  store w (s1.reg esp) v s1

/-- `pop_N()` (20_memory.md R71): the read, then the pointer moves. Answers the value and the new state. -/
def pop (w : Width) (s : State) : Out (BitVec w.bits × State) :=
  chain (load w (s.reg esp) s) fun v => .next (v, s.setReg esp (s.reg esp + BitVec.ofNat 32 w.bytes))

/-! ## PFX (10_state.md R38 to R40, 49_dispatch.md R476, R480) -/

/-- The transient fields cleared and the default sizes set again; the repeat bits stay (49_dispatch.md R480). -/
def PrefixState.tail (p : PrefixState) : PrefixState := { PrefixState.initial with repnz := p.repnz, repz := p.repz }

/-- The common tail of an instruction that completes (49_dispatch.md R480). IP already is the handler's pc. -/
def commonTail (s : State) : State := s.setPfx s.pfx.tail

/-- PFX as thirteen bits, SEG_ES bit 0 to AS32 bit 12 (10_state.md R40). -/
def PrefixState.toBits (p : PrefixState) : BitVec 13 :=
  BitVec.ofBoolListLE [p.segEs, p.segCs, p.segSs, p.segDs, p.segFs, p.segGs, p.opovr, p.adovr, p.lock, p.repnz, p.repz,
    p.os32, p.as32]

/-! ## FLAGS as a word (10_state.md R33) -/

/-- FLAGS at the EFLAGS positions; every other bit reads as 0. -/
def Flags.toWord (f : Flags) : Word :=
  (BitVec.ofBoolListLE [f.cf, false, f.pf, false, f.af, false, f.zf, f.sf, f.tf, f.ifl, f.df, f.ofl]).setWidth 32

/-- FLAGS written as a word: the other bits are ignored. -/
def Flags.ofWord (v : Word) : Flags :=
  { cf := v.getLsbD 0, pf := v.getLsbD 2, af := v.getLsbD 4, zf := v.getLsbD 6, sf := v.getLsbD 7, tf := v.getLsbD 8,
    ifl := v.getLsbD 9, df := v.getLsbD 10, ofl := v.getLsbD 11 }

/-! ## The host functions (48_string_io.md R455, 47_control_transfer.md R440) -/

/-- `port_in8(port)`: one call, whose answer may depend on the calls before it (log 4). -/
def portIn (port : BitVec 16) (s : State) : Byte × State :=
  let v := Config.portIn8 s.hostCalls port
  (v, s.logCall (.portIn port v))

/-- `port_out8(port, byte)`. -/
def portOut (port : BitVec 16) (data : Byte) (s : State) : State := s.logCall (.portOut port data)

/-- What the dispatcher sees (47_control_transfer.md R440). -/
def State.view (s : State) : HostView :=
  { regs := s.regs, flags := s.flags.toWord, ip := s.ip, pfx := s.pfx.toBits, capacity := s.mem.capacity,
    cells := s.mem.cells, hostCalls := s.hostCalls }

/-- Bytes the host writes, in order; a write outside memory has no effect (log 6). -/
def Memory.hostWrites (m : Memory) : List Host.Cell → Memory
  | [] => m
  | (a, v) :: ws => (if m.inBounds a 1 then m.setByte a v else m).hostWrites ws

/-- The dispatcher's answer applied: registers, FLAGS and memory, never IP or PFX (47_control_transfer.md R440; log 5). -/
def State.applyReply (s : State) (r : HostReply) : State :=
  { s with regs := r.regs, flags := Flags.ofWord r.flags, mem := s.mem.hostWrites r.writes }

/-! ## Fetching from memory (30_encoding.md R102) -/

/-- Fetching from `base` on: each field is read with `MemRead`, and pc moves modulo 2^32 between fields (10_state.md R30). -/
def memFetch (m : Memory) (base : Word) : Fetch := fun off n =>
  let a := (base + BitVec.ofNat 32 off).toNat
  if m.inBounds a n then some (leValue (m.bytes a n)) else none

end Sys2Proof.Machine
end

