-- ==== Sys2Proof/Machine/Cycle.lean ====
section
/-! DEFINITION. One fetch-decode-execute cycle (49_dispatch.md R485), over any execution function, and the placing of an
instruction's bytes where the next cycle fetches. -/

namespace Sys2Proof.Machine

open Sys2Proof

/-- What decoding at IP finds (49_dispatch.md R476, R485). -/
def decodeAt (s : State) : Decoded := decode (memFetch s.mem s.ip) s.decodeMode

/-- pc advanced by a number of bytes, modulo 2^32 (10_state.md R29, R30). -/
def State.advance (s : State) (n : Nat) : State := s.setIp (s.ip + BitVec.ofNat 32 n)

/-- The loop of 49_dispatch.md R476 and R485: prefix bytes are run one after the other, then one non-prefix instruction
is run and the common tail after it (R480). All fetches of an instruction come before its meaning (R490; log 10). `fuel`
bounds the number of prefix bytes (log 12). -/
def cycle (ex : Instr → State → Out State) : (fuel : Nat) → State → Out State
  | 0, _ => .refused .prefixRunNeverEnds
  | fuel + 1, s =>
    match decodeAt s with
    | .pfxByte i => chain (ex i (s.advance 1)) fun s1 => cycle ex fuel s1
    | .ok i len => chain (ex i (s.advance len)) fun s1 => .next (commonTail s1)
    | .truncated off n => raiseOutOfBounds s (s.ip + BitVec.ofNat 32 off) n .read
    | .unmapped bytes => raiseUnimplemented s bytes
    | .refused why => .refused (refusalOf why)

/-- The state a cycle starts from: `ip_start` remembered, no notice yet (49_dispatch.md R485, R486; log 8). -/
def State.begin (s : State) : State := (s.setIpStart s.ip).setNotice none

/-- One step (49_dispatch.md R485). A run of prefix bytes longer than the memory can only be one that goes round a memory
of 2^32 bytes (49_dispatch.md R476; log 12). -/
def stepWith (ex : Instr → State → Out State) (s : State) : Out State := cycle ex (s.mem.capacity + 1) s.begin

/-- Bytes written to memory from an address on, whatever the capacity (log 21). -/
def State.placeBytes (s : State) (a : Nat) (bs : List Byte) : State := s.setMem (s.mem.writeBytes a bs)

/-- An instruction of spec/opcode_table.json written at IP (log 21). -/
def State.placeTableWord (s : State) (nbits w : Nat) : State := s.placeBytes s.ip.toNat (tableBytes nbits w)

end Sys2Proof.Machine
end

