-- ==== Sys2Proof/Machine/Flags.lean ====
section
/-! DEFINITION. The flag functions and the sixteen conditions, at every operand width (40_flags.md). -/

namespace Sys2Proof.Machine

open Sys2Proof

/-- The parity of 40_flags.md R155: true when the byte has an even number of 1 bits. -/
def parity (b : Byte) : Bool :=
  !(b.getLsbD 0 ^^ b.getLsbD 1 ^^ b.getLsbD 2 ^^ b.getLsbD 3 ^^ b.getLsbD 4 ^^ b.getLsbD 5 ^^ b.getLsbD 6 ^^ b.getLsbD 7)

/-- `flags_szp_N(r)` (40_flags.md R158). -/
def flagsSzp {n : Nat} (r : BitVec n) (f : Flags) : Flags :=
  { f with sf := r.getLsbD (n - 1), zf := r == 0#n, pf := parity (r.setWidth 8) }

/-- The carry chain of an addition: bit `i` is the carry out of position `i` (40_flags.md R151). -/
def addChain {n : Nat} (a b r : BitVec n) : BitVec n := (a &&& b) ||| (~~~r &&& (a ||| b))

/-- The borrow chain of a subtraction: bit `i` is the borrow out of position `i` (40_flags.md R152). -/
def subChain {n : Nat} (a b r : BitVec n) : BitVec n := (r &&& (~~~a ||| b)) ||| (~~~a &&& b)

/-- OF and AF from a chain, and SF, ZF, PF from the result; CF is left alone (40_flags.md R151, R152, R156). -/
def flagsFromChain {n : Nat} (chain r : BitVec n) (f : Flags) : Flags :=
  flagsSzp r { f with ofl := chain.getLsbD (n - 1) ^^ chain.getLsbD (n - 2), af := chain.getLsbD 3 }

/-- `flags_add_N(a, b, r)` (40_flags.md R151). -/
def flagsAdd {n : Nat} (a b r : BitVec n) (f : Flags) : Flags :=
  flagsFromChain (addChain a b r) r { f with cf := (addChain a b r).getLsbD (n - 1) }

/-- `flags_sub_N(a, b, r)` (40_flags.md R152). -/
def flagsSub {n : Nat} (a b r : BitVec n) (f : Flags) : Flags :=
  flagsFromChain (subChain a b r) r { f with cf := (subChain a b r).getLsbD (n - 1) }

/-- `flags_logic_N(r)` (40_flags.md R154). -/
def flagsLogic {n : Nat} (r : BitVec n) (f : Flags) : Flags :=
  flagsSzp r { f with cf := false, ofl := false, af := false }

/-- `flags_inc_N(a, r)`: the chain with operand 1, CF kept (40_flags.md R156). -/
def flagsInc {n : Nat} (a r : BitVec n) (f : Flags) : Flags := flagsFromChain (addChain a 1 r) r f

/-- `flags_dec_N(a, r)`: the chain with operand 1, CF kept (40_flags.md R156). -/
def flagsDec {n : Nat} (a r : BitVec n) (f : Flags) : Flags := flagsFromChain (subChain a 1 r) r f

/-- The flags of NEG: a subtraction from zero (40_flags.md R157). -/
def flagsNeg {n : Nat} (a r : BitVec n) (f : Flags) : Flags := flagsSub 0 a r f

/-- The sixteen conditions (40_flags.md R165). -/
inductive Cond where
  | o | no | b | ae | e | ne | be | a | s | ns | p | np | l | ge | le | g
  deriving DecidableEq, Repr

/-- `cond(cc)` (40_flags.md R165). -/
def condHolds (f : Flags) : Cond → Bool
  | .o => f.ofl
  | .no => !f.ofl
  | .b => f.cf
  | .ae => !f.cf
  | .e => f.zf
  | .ne => !f.zf
  | .be => f.cf || f.zf
  | .a => !f.cf && !f.zf
  | .s => f.sf
  | .ns => !f.sf
  | .p => f.pf
  | .np => !f.pf
  | .l => f.sf != f.ofl
  | .ge => f.sf == f.ofl
  | .le => f.zf || (f.sf != f.ofl)
  | .g => !f.zf && (f.sf == f.ofl)

end Sys2Proof.Machine
end

