-- ==== Sys2Proof/Machine/Operands.lean ====
section
/-! DEFINITION. The operand forms: effective addresses, register-or-memory operands and immediates (41_addressing.md). -/

namespace Sys2Proof.Machine

open Sys2Proof

/-- `sib(d)` (41_addressing.md R187), with the base's contribution given. -/
def sibSum (scale : BitVec 2) (index : RegIdx) (base : Word) (s : State) : Word :=
  base + (if index = 4#3 then 0 else s.reg index <<< scale.toNat)

/-- `ea(d)` (41_addressing.md R186, R187, R188), modulo 2^32. -/
def ea (o : MemOperand) (s : State) : Word :=
  match o with
  | .base r => s.reg r
  | .disp32 d => d
  | .baseDisp8 r d => s.reg r + d.signExtend 32
  | .baseDisp32 r d => s.reg r + d
  | .sib sc ix bs => sibSum sc ix (if bs = 5#3 then 0 else s.reg bs) s
  | .sibDisp8 sc ix bs d => sibSum sc ix (s.reg bs) s + d.signExtend 32
  | .sibDisp32 sc ix bs d => sibSum sc ix (s.reg bs) s + d

/-- A memory operand under 16-bit addressing is refused (41_addressing.md R184). The decoder refuses it before any meaning
runs; a meaning called by itself refuses it too (log 19). -/
def addressed {α : Type} (s : State) (k : Out α) : Out α := if s.pfx.as32 then k else .refused .addr16

/-- `rm_read_N(d)` (41_addressing.md R190, R194). -/
def rmRead (w : Width) (d : Rm) (s : State) : Out (BitVec w.bits) :=
  match d with
  | .reg r => .next (readReg w r s)
  | .mem o => addressed s (load w (ea o s) s)

/-- `rm_write_N(d, v)` (41_addressing.md R191, R194, R195): the address is computed at the call. -/
def rmWrite (w : Width) (d : Rm) (v : BitVec w.bits) (s : State) : Out State :=
  match d with
  | .reg r => .next (writeReg w r v s)
  | .mem o => addressed s (store w (ea o s) v s)

/-- `refuse(addr16)` where decoding the operand comes before anything else the meaning does (41_addressing.md R181, R184). -/
def addressedRm {α : Type} (d : Rm) (s : State) (k : Out α) : Out α :=
  match d with
  | .reg _ => k
  | .mem _ => addressed s k

/-- An immediate of kind `iv` at the operand width (30_encoding.md R108; log 15). -/
def immv (w : Width) (imm : Word) : BitVec w.bits := imm.setWidth w.bits

/-- An immediate of kind `ibs`, sign-extended to the operand width (30_encoding.md R108). -/
def imm8s (w : Width) (imm : Byte) : BitVec w.bits := imm.signExtend w.bits

/-- The accumulator AL, AX or EAX (10_state.md R22). -/
abbrev acc : RegIdx := 0#3

/-- ECX, whose low byte CL is the 8-bit register of the same index (10_state.md R22). -/
abbrev ecx : RegIdx := 1#3

/-- EDX or DX (10_state.md R22). -/
abbrev edx : RegIdx := 2#3

/-- EBP (10_state.md R22). -/
abbrev ebp : RegIdx := 5#3

/-- EDI (10_state.md R22). -/
abbrev edi : RegIdx := 7#3

end Sys2Proof.Machine
end

