-- ==== Sys2Proof/Machine/Arith.lean ====
section
/-! DEFINITION. ADD OR AND SUB XOR CMP TEST NOT NEG INC DEC (42_arith_logic.md). -/

namespace Sys2Proof.Machine

open Sys2Proof

/-- The seven two-operand operations (42_arith_logic.md R210). -/
inductive AluOp where
  | add | or | and | sub | xor | cmp | test
  deriving DecidableEq, Repr

/-- The result column of 42_arith_logic.md R210. -/
def aluResult {n : Nat} (op : AluOp) (a b : BitVec n) : BitVec n :=
  match op with
  | .add => a + b
  | .or => a ||| b
  | .and => a &&& b
  | .sub => a - b
  | .xor => a ^^^ b
  | .cmp => a - b
  | .test => a &&& b

/-- The flag function column of 42_arith_logic.md R210. -/
def aluFlags {n : Nat} (op : AluOp) (a b r : BitVec n) (f : Flags) : Flags :=
  match op with
  | .add => flagsAdd a b r f
  | .or => flagsLogic r f
  | .and => flagsLogic r f
  | .sub => flagsSub a b r f
  | .xor => flagsLogic r f
  | .cmp => flagsSub a b r f
  | .test => flagsLogic r f

/-- The destination written column of 42_arith_logic.md R210. -/
def aluWrites : AluOp → Bool
  | .add => true
  | .or => true
  | .and => true
  | .sub => true
  | .xor => true
  | .cmp => false
  | .test => false

/-- Result written where the form says, then the flags (42_arith_logic.md R211, 40_flags.md R160). -/
def aluFinish {n : Nat} (op : AluOp) (a b : BitVec n) (write : BitVec n → State → Out State) (s : State) : Out State :=
  let r := aluResult op a b
  chain (if aluWrites op then write r s else .next s) fun s1 => .next (s1.setFlags (aluFlags op a b r s1.flags))

/-- Form `r/m, r` (42_arith_logic.md R211). -/
def aluRmReg (op : AluOp) (w : Width) (d : Rm) (r : RegIdx) (s : State) : Out State :=
  chain (rmRead w d s) fun a => aluFinish op a (readReg w r s) (rmWrite w d) s

/-- Form `r, r/m` (42_arith_logic.md R211). -/
def aluRegRm (op : AluOp) (w : Width) (r : RegIdx) (d : Rm) (s : State) : Out State :=
  chain (rmRead w d s) fun b => aluFinish op (readReg w r s) b (fun v s => .next (writeReg w r v s)) s

/-- Forms `AL, imm8` and `eAX, immv` (42_arith_logic.md R211). -/
def aluAccImm (op : AluOp) (w : Width) (imm : BitVec w.bits) (s : State) : Out State :=
  aluFinish op (readReg w acc s) imm (fun v s => .next (writeReg w acc v s)) s

/-- Forms `r/mv, immv` and `r/mv, imm8s` (42_arith_logic.md R211). -/
def aluRmImm (op : AluOp) (w : Width) (d : Rm) (imm : BitVec w.bits) (s : State) : Out State :=
  chain (rmRead w d s) fun a => aluFinish op a imm (rmWrite w d) s

/-- The one-operand form: read, compute, write back, flags (42_arith_logic.md R268 to R273). -/
def unaryRm (w : Width) (d : Rm) (f : BitVec w.bits → BitVec w.bits)
    (fl : BitVec w.bits → BitVec w.bits → Flags → Flags) (s : State) : Out State :=
  chain (rmRead w d s) fun a => chain (rmWrite w d (f a) s) fun s1 => .next (s1.setFlags (fl a (f a) s1.flags))

/-- ADD r/m8, r8, opcode 00 (42_arith_logic.md R212). -/
def execAddRm8R8 (d : Rm) (r : RegIdx) (s : State) : Out State :=
  aluRmReg .add .w8 d r s

/-- ADD r/mv, rv, opcode 01 (42_arith_logic.md R213). -/
def execAddRmvRv (d : Rm) (r : RegIdx) (s : State) : Out State :=
  aluRmReg .add s.osz d r s

/-- ADD r8, r/m8, opcode 02 (42_arith_logic.md R214). -/
def execAddR8Rm8 (r : RegIdx) (d : Rm) (s : State) : Out State :=
  aluRegRm .add .w8 r d s

/-- ADD rv, r/mv, opcode 03 (42_arith_logic.md R215). -/
def execAddRvRmv (r : RegIdx) (d : Rm) (s : State) : Out State :=
  aluRegRm .add s.osz r d s

/-- ADD AL, imm8, opcode 04 (42_arith_logic.md R216). -/
def execAddAlImm8 (imm : Byte) (s : State) : Out State :=
  aluAccImm .add .w8 imm s

/-- ADD eAX, immv, opcode 05 (42_arith_logic.md R217). -/
def execAddEaxImmv (imm : Word) (s : State) : Out State :=
  aluAccImm .add s.osz (immv s.osz imm) s

/-- ADD r/mv, immv, opcode 81 /0 (42_arith_logic.md R218). -/
def execAddRmvImmv (d : Rm) (imm : Word) (s : State) : Out State :=
  aluRmImm .add s.osz d (immv s.osz imm) s

/-- ADD r/mv, imm8s, opcode 83 /0 (42_arith_logic.md R219). -/
def execAddRmvImm8s (d : Rm) (imm : Byte) (s : State) : Out State :=
  aluRmImm .add s.osz d (imm8s s.osz imm) s

/-- OR r/m8, r8, opcode 08 (42_arith_logic.md R220). -/
def execOrRm8R8 (d : Rm) (r : RegIdx) (s : State) : Out State :=
  aluRmReg .or .w8 d r s

/-- OR r/mv, rv, opcode 09 (42_arith_logic.md R221). -/
def execOrRmvRv (d : Rm) (r : RegIdx) (s : State) : Out State :=
  aluRmReg .or s.osz d r s

/-- OR r8, r/m8, opcode 0A (42_arith_logic.md R222). -/
def execOrR8Rm8 (r : RegIdx) (d : Rm) (s : State) : Out State :=
  aluRegRm .or .w8 r d s

/-- OR rv, r/mv, opcode 0B (42_arith_logic.md R223). -/
def execOrRvRmv (r : RegIdx) (d : Rm) (s : State) : Out State :=
  aluRegRm .or s.osz r d s

/-- OR AL, imm8, opcode 0C (42_arith_logic.md R224). -/
def execOrAlImm8 (imm : Byte) (s : State) : Out State :=
  aluAccImm .or .w8 imm s

/-- OR eAX, immv, opcode 0D (42_arith_logic.md R225). -/
def execOrEaxImmv (imm : Word) (s : State) : Out State :=
  aluAccImm .or s.osz (immv s.osz imm) s

/-- OR r/mv, immv, opcode 81 /1 (42_arith_logic.md R226). -/
def execOrRmvImmv (d : Rm) (imm : Word) (s : State) : Out State :=
  aluRmImm .or s.osz d (immv s.osz imm) s

/-- OR r/mv, imm8s, opcode 83 /1 (42_arith_logic.md R227). -/
def execOrRmvImm8s (d : Rm) (imm : Byte) (s : State) : Out State :=
  aluRmImm .or s.osz d (imm8s s.osz imm) s

/-- AND r/m8, r8, opcode 20 (42_arith_logic.md R228). -/
def execAndRm8R8 (d : Rm) (r : RegIdx) (s : State) : Out State :=
  aluRmReg .and .w8 d r s

/-- AND r/mv, rv, opcode 21 (42_arith_logic.md R229). -/
def execAndRmvRv (d : Rm) (r : RegIdx) (s : State) : Out State :=
  aluRmReg .and s.osz d r s

/-- AND r8, r/m8, opcode 22 (42_arith_logic.md R230). -/
def execAndR8Rm8 (r : RegIdx) (d : Rm) (s : State) : Out State :=
  aluRegRm .and .w8 r d s

/-- AND rv, r/mv, opcode 23 (42_arith_logic.md R231). -/
def execAndRvRmv (r : RegIdx) (d : Rm) (s : State) : Out State :=
  aluRegRm .and s.osz r d s

/-- AND AL, imm8, opcode 24 (42_arith_logic.md R232). -/
def execAndAlImm8 (imm : Byte) (s : State) : Out State :=
  aluAccImm .and .w8 imm s

/-- AND eAX, immv, opcode 25 (42_arith_logic.md R233). -/
def execAndEaxImmv (imm : Word) (s : State) : Out State :=
  aluAccImm .and s.osz (immv s.osz imm) s

/-- AND r/mv, immv, opcode 81 /4 (42_arith_logic.md R234). -/
def execAndRmvImmv (d : Rm) (imm : Word) (s : State) : Out State :=
  aluRmImm .and s.osz d (immv s.osz imm) s

/-- AND r/mv, imm8s, opcode 83 /4 (42_arith_logic.md R235). -/
def execAndRmvImm8s (d : Rm) (imm : Byte) (s : State) : Out State :=
  aluRmImm .and s.osz d (imm8s s.osz imm) s

/-- SUB r/m8, r8, opcode 28 (42_arith_logic.md R236). -/
def execSubRm8R8 (d : Rm) (r : RegIdx) (s : State) : Out State :=
  aluRmReg .sub .w8 d r s

/-- SUB r/mv, rv, opcode 29 (42_arith_logic.md R237). -/
def execSubRmvRv (d : Rm) (r : RegIdx) (s : State) : Out State :=
  aluRmReg .sub s.osz d r s

/-- SUB r8, r/m8, opcode 2A (42_arith_logic.md R238). -/
def execSubR8Rm8 (r : RegIdx) (d : Rm) (s : State) : Out State :=
  aluRegRm .sub .w8 r d s

/-- SUB rv, r/mv, opcode 2B (42_arith_logic.md R239). -/
def execSubRvRmv (r : RegIdx) (d : Rm) (s : State) : Out State :=
  aluRegRm .sub s.osz r d s

/-- SUB AL, imm8, opcode 2C (42_arith_logic.md R240). -/
def execSubAlImm8 (imm : Byte) (s : State) : Out State :=
  aluAccImm .sub .w8 imm s

/-- SUB eAX, immv, opcode 2D (42_arith_logic.md R241). -/
def execSubEaxImmv (imm : Word) (s : State) : Out State :=
  aluAccImm .sub s.osz (immv s.osz imm) s

/-- SUB r/mv, immv, opcode 81 /5 (42_arith_logic.md R242). -/
def execSubRmvImmv (d : Rm) (imm : Word) (s : State) : Out State :=
  aluRmImm .sub s.osz d (immv s.osz imm) s

/-- SUB r/mv, imm8s, opcode 83 /5 (42_arith_logic.md R243). -/
def execSubRmvImm8s (d : Rm) (imm : Byte) (s : State) : Out State :=
  aluRmImm .sub s.osz d (imm8s s.osz imm) s

/-- XOR r/m8, r8, opcode 30 (42_arith_logic.md R244). -/
def execXorRm8R8 (d : Rm) (r : RegIdx) (s : State) : Out State :=
  aluRmReg .xor .w8 d r s

/-- XOR r/mv, rv, opcode 31 (42_arith_logic.md R245). -/
def execXorRmvRv (d : Rm) (r : RegIdx) (s : State) : Out State :=
  aluRmReg .xor s.osz d r s

/-- XOR r8, r/m8, opcode 32 (42_arith_logic.md R246). -/
def execXorR8Rm8 (r : RegIdx) (d : Rm) (s : State) : Out State :=
  aluRegRm .xor .w8 r d s

/-- XOR rv, r/mv, opcode 33 (42_arith_logic.md R247). -/
def execXorRvRmv (r : RegIdx) (d : Rm) (s : State) : Out State :=
  aluRegRm .xor s.osz r d s

/-- XOR AL, imm8, opcode 34 (42_arith_logic.md R248). -/
def execXorAlImm8 (imm : Byte) (s : State) : Out State :=
  aluAccImm .xor .w8 imm s

/-- XOR eAX, immv, opcode 35 (42_arith_logic.md R249). -/
def execXorEaxImmv (imm : Word) (s : State) : Out State :=
  aluAccImm .xor s.osz (immv s.osz imm) s

/-- XOR r/mv, immv, opcode 81 /6 (42_arith_logic.md R250). -/
def execXorRmvImmv (d : Rm) (imm : Word) (s : State) : Out State :=
  aluRmImm .xor s.osz d (immv s.osz imm) s

/-- XOR r/mv, imm8s, opcode 83 /6 (42_arith_logic.md R251). -/
def execXorRmvImm8s (d : Rm) (imm : Byte) (s : State) : Out State :=
  aluRmImm .xor s.osz d (imm8s s.osz imm) s

/-- CMP r/m8, r8, opcode 38 (42_arith_logic.md R252). -/
def execCmpRm8R8 (d : Rm) (r : RegIdx) (s : State) : Out State :=
  aluRmReg .cmp .w8 d r s

/-- CMP r/mv, rv, opcode 39 (42_arith_logic.md R253). -/
def execCmpRmvRv (d : Rm) (r : RegIdx) (s : State) : Out State :=
  aluRmReg .cmp s.osz d r s

/-- CMP r8, r/m8, opcode 3A (42_arith_logic.md R254). -/
def execCmpR8Rm8 (r : RegIdx) (d : Rm) (s : State) : Out State :=
  aluRegRm .cmp .w8 r d s

/-- CMP rv, r/mv, opcode 3B (42_arith_logic.md R255). -/
def execCmpRvRmv (r : RegIdx) (d : Rm) (s : State) : Out State :=
  aluRegRm .cmp s.osz r d s

/-- CMP AL, imm8, opcode 3C (42_arith_logic.md R256). -/
def execCmpAlImm8 (imm : Byte) (s : State) : Out State :=
  aluAccImm .cmp .w8 imm s

/-- CMP eAX, immv, opcode 3D (42_arith_logic.md R257). -/
def execCmpEaxImmv (imm : Word) (s : State) : Out State :=
  aluAccImm .cmp s.osz (immv s.osz imm) s

/-- CMP r/mv, immv, opcode 81 /7 (42_arith_logic.md R258). -/
def execCmpRmvImmv (d : Rm) (imm : Word) (s : State) : Out State :=
  aluRmImm .cmp s.osz d (immv s.osz imm) s

/-- CMP r/mv, imm8s, opcode 83 /7 (42_arith_logic.md R259). -/
def execCmpRmvImm8s (d : Rm) (imm : Byte) (s : State) : Out State :=
  aluRmImm .cmp s.osz d (imm8s s.osz imm) s

/-- TEST r/m8, r8, opcode 84 (42_arith_logic.md R260). -/
def execTestRm8R8 (d : Rm) (r : RegIdx) (s : State) : Out State :=
  aluRmReg .test .w8 d r s

/-- TEST r/mv, rv, opcode 85 (42_arith_logic.md R261). -/
def execTestRmvRv (d : Rm) (r : RegIdx) (s : State) : Out State :=
  aluRmReg .test s.osz d r s

/-- TEST AL, imm8, opcode A8 (42_arith_logic.md R262). -/
def execTestAlImm8 (imm : Byte) (s : State) : Out State :=
  aluAccImm .test .w8 imm s

/-- TEST eAX, immv, opcode A9 (42_arith_logic.md R263). -/
def execTestEaxImmv (imm : Word) (s : State) : Out State :=
  aluAccImm .test s.osz (immv s.osz imm) s

/-- TEST r/mv, immv, opcode F7 /0 (42_arith_logic.md R264). -/
def execTestRmvImmv (d : Rm) (imm : Word) (s : State) : Out State :=
  aluRmImm .test s.osz d (immv s.osz imm) s

/-- NOT r/mv, opcode F7 /2 (42_arith_logic.md R268). -/
def execNotRmv (d : Rm) (s : State) : Out State :=
  unaryRm s.osz d (fun a => ~~~a) (fun _ _ f => f) s

/-- NEG r/mv, opcode F7 /3 (42_arith_logic.md R269). -/
def execNegRmv (d : Rm) (s : State) : Out State :=
  unaryRm s.osz d (fun a => 0 - a) flagsNeg s

/-- INC rv, opcode 40+r (42_arith_logic.md R270). -/
def execIncRv (r : RegIdx) (s : State) : Out State :=
  unaryRm s.osz (.reg r) (fun a => a + 1) flagsInc s

/-- INC r/mv, opcode FF /0 (42_arith_logic.md R271). -/
def execIncRmv (d : Rm) (s : State) : Out State :=
  unaryRm s.osz d (fun a => a + 1) flagsInc s

/-- DEC rv, opcode 48+r (42_arith_logic.md R272). -/
def execDecRv (r : RegIdx) (s : State) : Out State :=
  unaryRm s.osz (.reg r) (fun a => a - 1) flagsDec s

/-- DEC r/mv, opcode FF /1 (42_arith_logic.md R273). -/
def execDecRmv (d : Rm) (s : State) : Out State :=
  unaryRm s.osz d (fun a => a - 1) flagsDec s

end Sys2Proof.Machine
end

