-- ==== Sys2Proof/Machine/Control.lean ====
section
/-! DEFINITION. JMP, the conditional jumps, CALL, RET and INT (47_control_transfer.md). -/

namespace Sys2Proof.Machine

open Sys2Proof

/-- The relative target: the offset added to the address after the instruction, modulo 2^32 (47_control_transfer.md R390). -/
def relTarget (s : State) (rel : Word) : Word := s.ip + rel

/-- Prefix 0x66 before a control transfer is refused (47_control_transfer.md R441). -/
def transfer (s : State) (k : Out State) : Out State := if s.pfx.opovr then .refused .opsize16Transfer else k

/-- The common form of the unconditional jumps (47_control_transfer.md R391, R392). -/
def jump (rel : Word) (s : State) : Out State := transfer s (.next (s.setIp (relTarget s rel)))

/-- The common form of the conditional jumps (47_control_transfer.md R393). -/
def jumpIf (c : Cond) (rel : Word) (s : State) : Out State :=
  transfer s (if condHolds s.flags c then .next (s.setIp (relTarget s rel)) else .next s)

/-- The return address pushed, then the transfer (47_control_transfer.md R420, R421). -/
def callTo (target : Word) (s : State) : Out State := chain (push .w32 s.ip s) fun s1 => .next (s1.setIp target)

/-- The dispatcher called on a vector and its answer applied; an unhandled vector is reported as a notice
(47_control_transfer.md R440, 60_exceptions.md R506; log 5). -/
def dispatchInt (v : Byte) (s : State) : State :=
  let r := Config.intDispatch v s.view
  let s1 := (s.applyReply r).logCall (.intDispatch v r.handled)
  if r.handled then s1 else s1.setNotice (some { vector := v, ipStart := s1.ipStart })

/-- JMP rel8, opcode EB (47_control_transfer.md R391). -/
def execJmpRel8 (rel : Byte) (s : State) : Out State :=
  jump (rel.signExtend 32) s

/-- JMP rel32, opcode E9 (47_control_transfer.md R392). -/
def execJmpRel32 (rel : Word) (s : State) : Out State :=
  jump rel s

/-- JO rel8, opcode 70 (47_control_transfer.md R394). -/
def execJoRel8 (rel : Byte) (s : State) : Out State :=
  jumpIf .o (rel.signExtend 32) s

/-- JNO rel8, opcode 71 (47_control_transfer.md R395). -/
def execJnoRel8 (rel : Byte) (s : State) : Out State :=
  jumpIf .no (rel.signExtend 32) s

/-- JB rel8, opcode 72 (47_control_transfer.md R396). -/
def execJbRel8 (rel : Byte) (s : State) : Out State :=
  jumpIf .b (rel.signExtend 32) s

/-- JAE rel8, opcode 73 (47_control_transfer.md R397). -/
def execJaeRel8 (rel : Byte) (s : State) : Out State :=
  jumpIf .ae (rel.signExtend 32) s

/-- JE rel8, opcode 74 (47_control_transfer.md R398). -/
def execJeRel8 (rel : Byte) (s : State) : Out State :=
  jumpIf .e (rel.signExtend 32) s

/-- JNE rel8, opcode 75 (47_control_transfer.md R399). -/
def execJneRel8 (rel : Byte) (s : State) : Out State :=
  jumpIf .ne (rel.signExtend 32) s

/-- JBE rel8, opcode 76 (47_control_transfer.md R400). -/
def execJbeRel8 (rel : Byte) (s : State) : Out State :=
  jumpIf .be (rel.signExtend 32) s

/-- JA rel8, opcode 77 (47_control_transfer.md R401). -/
def execJaRel8 (rel : Byte) (s : State) : Out State :=
  jumpIf .a (rel.signExtend 32) s

/-- JS rel8, opcode 78 (47_control_transfer.md R402). -/
def execJsRel8 (rel : Byte) (s : State) : Out State :=
  jumpIf .s (rel.signExtend 32) s

/-- JNS rel8, opcode 79 (47_control_transfer.md R403). -/
def execJnsRel8 (rel : Byte) (s : State) : Out State :=
  jumpIf .ns (rel.signExtend 32) s

/-- JP rel8, opcode 7A (47_control_transfer.md R404). -/
def execJpRel8 (rel : Byte) (s : State) : Out State :=
  jumpIf .p (rel.signExtend 32) s

/-- JNP rel8, opcode 7B (47_control_transfer.md R405). -/
def execJnpRel8 (rel : Byte) (s : State) : Out State :=
  jumpIf .np (rel.signExtend 32) s

/-- JL rel8, opcode 7C (47_control_transfer.md R406). -/
def execJlRel8 (rel : Byte) (s : State) : Out State :=
  jumpIf .l (rel.signExtend 32) s

/-- JGE rel8, opcode 7D (47_control_transfer.md R407). -/
def execJgeRel8 (rel : Byte) (s : State) : Out State :=
  jumpIf .ge (rel.signExtend 32) s

/-- JLE rel8, opcode 7E (47_control_transfer.md R408). -/
def execJleRel8 (rel : Byte) (s : State) : Out State :=
  jumpIf .le (rel.signExtend 32) s

/-- JG rel8, opcode 7F (47_control_transfer.md R409). -/
def execJgRel8 (rel : Byte) (s : State) : Out State :=
  jumpIf .g (rel.signExtend 32) s

/-- JO rel32, opcode 0F 80 (47_control_transfer.md R394). -/
def execJoRel32 (rel : Word) (s : State) : Out State :=
  jumpIf .o rel s

/-- JNO rel32, opcode 0F 81 (47_control_transfer.md R395). -/
def execJnoRel32 (rel : Word) (s : State) : Out State :=
  jumpIf .no rel s

/-- JB rel32, opcode 0F 82 (47_control_transfer.md R396). -/
def execJbRel32 (rel : Word) (s : State) : Out State :=
  jumpIf .b rel s

/-- JAE rel32, opcode 0F 83 (47_control_transfer.md R397). -/
def execJaeRel32 (rel : Word) (s : State) : Out State :=
  jumpIf .ae rel s

/-- JE rel32, opcode 0F 84 (47_control_transfer.md R398). -/
def execJeRel32 (rel : Word) (s : State) : Out State :=
  jumpIf .e rel s

/-- JNE rel32, opcode 0F 85 (47_control_transfer.md R399). -/
def execJneRel32 (rel : Word) (s : State) : Out State :=
  jumpIf .ne rel s

/-- JBE rel32, opcode 0F 86 (47_control_transfer.md R400). -/
def execJbeRel32 (rel : Word) (s : State) : Out State :=
  jumpIf .be rel s

/-- JA rel32, opcode 0F 87 (47_control_transfer.md R401). -/
def execJaRel32 (rel : Word) (s : State) : Out State :=
  jumpIf .a rel s

/-- JS rel32, opcode 0F 88 (47_control_transfer.md R402). -/
def execJsRel32 (rel : Word) (s : State) : Out State :=
  jumpIf .s rel s

/-- JNS rel32, opcode 0F 89 (47_control_transfer.md R403). -/
def execJnsRel32 (rel : Word) (s : State) : Out State :=
  jumpIf .ns rel s

/-- JP rel32, opcode 0F 8A (47_control_transfer.md R404). -/
def execJpRel32 (rel : Word) (s : State) : Out State :=
  jumpIf .p rel s

/-- JNP rel32, opcode 0F 8B (47_control_transfer.md R405). -/
def execJnpRel32 (rel : Word) (s : State) : Out State :=
  jumpIf .np rel s

/-- JL rel32, opcode 0F 8C (47_control_transfer.md R406). -/
def execJlRel32 (rel : Word) (s : State) : Out State :=
  jumpIf .l rel s

/-- JGE rel32, opcode 0F 8D (47_control_transfer.md R407). -/
def execJgeRel32 (rel : Word) (s : State) : Out State :=
  jumpIf .ge rel s

/-- JLE rel32, opcode 0F 8E (47_control_transfer.md R408). -/
def execJleRel32 (rel : Word) (s : State) : Out State :=
  jumpIf .le rel s

/-- JG rel32, opcode 0F 8F (47_control_transfer.md R409). -/
def execJgRel32 (rel : Word) (s : State) : Out State :=
  jumpIf .g rel s

/-- CALL rel32, opcode E8 (47_control_transfer.md R420). -/
def execCallRel32 (rel : Word) (s : State) : Out State :=
  transfer s (callTo (relTarget s rel) s)

/-- CALL r/m32, opcode FF /2 (47_control_transfer.md R421). -/
def execCallRm32 (d : Rm) (s : State) : Out State :=
  addressedRm d s (transfer s (chain (rmRead .w32 d s) fun t => callTo t s))

/-- RET, opcode C3 (47_control_transfer.md R422). -/
def execRet (s : State) : Out State :=
  transfer s (chain (pop .w32 s) fun p => .next (p.2.setIp p.1))

/-- INT imm8, opcode CD (47_control_transfer.md R440). -/
def execIntImm8 (v : Byte) (s : State) : Out State :=
  .next (dispatchInt v s)

end Sys2Proof.Machine
end

