-- ==== Sys2Proof/Machine/Move.lean ====
section
/-! DEFINITION. MOV and LEA (45_data_movement.md). -/

namespace Sys2Proof.Machine

open Sys2Proof


/-- MOV r/m8, r8, opcode 88 (45_data_movement.md R351). -/
def execMovRm8R8 (d : Rm) (r : RegIdx) (s : State) : Out State :=
  rmWrite .w8 d (readReg .w8 r s) s

/-- MOV r/mv, rv, opcode 89 (45_data_movement.md R352). -/
def execMovRmvRv (d : Rm) (r : RegIdx) (s : State) : Out State :=
  rmWrite s.osz d (readReg s.osz r s) s

/-- MOV r8, r/m8, opcode 8A (45_data_movement.md R353). -/
def execMovR8Rm8 (r : RegIdx) (d : Rm) (s : State) : Out State :=
  chain (rmRead .w8 d s) fun v => .next (writeReg .w8 r v s)

/-- MOV rv, r/mv, opcode 8B (45_data_movement.md R354). -/
def execMovRvRmv (r : RegIdx) (d : Rm) (s : State) : Out State :=
  chain (rmRead s.osz d s) fun v => .next (writeReg s.osz r v s)

/-- MOV r8, imm8, opcode B0+r (45_data_movement.md R355). -/
def execMovR8Imm8 (r : RegIdx) (imm : Byte) (s : State) : Out State :=
  .next (writeReg .w8 r imm s)

/-- MOV rv, immv, opcode B8+r (45_data_movement.md R356). -/
def execMovRvImmv (r : RegIdx) (imm : Word) (s : State) : Out State :=
  .next (writeReg s.osz r (immv s.osz imm) s)

/-- MOV r/m8, imm8, opcode C6 (45_data_movement.md R357). -/
def execMovRm8Imm8 (_x : RegIdx) (d : Rm) (imm : Byte) (s : State) : Out State :=
  rmWrite .w8 d imm s

/-- MOV r/mv, immv, opcode C7 (45_data_movement.md R358). -/
def execMovRmvImmv (_x : RegIdx) (d : Rm) (imm : Word) (s : State) : Out State :=
  rmWrite s.osz d (immv s.osz imm) s

/-- LEA rv, m, opcode 8D (45_data_movement.md R359). -/
def execLea (r : RegIdx) (m : MemOperand) (s : State) : Out State :=
  addressed s (.next (writeReg s.osz r ((ea m s).setWidth s.osz.bits) s))

end Sys2Proof.Machine
end

