-- ==== Sys2Proof/Machine/MulDiv.lean ====
section
/-! DEFINITION. MUL IMUL DIV IDIV (43_muldiv.md). -/

namespace Sys2Proof.Machine

open Sys2Proof

/-- The low and high halves of a product go to xN[0] and xN[2] (43_muldiv.md R290). -/
def writePair (w : Width) (lo hi : BitVec w.bits) (s : State) : State := writeReg w edx hi (writeReg w acc lo s)

/-- CF = OF as given; SF, ZF, PF, AF unspecified, four bits drawn in that order (43_muldiv.md R291, R292, R293; log 20). -/
def mulFlags (c : Bool) (s : State) : State :=
  (s.setFlags { s.flags with cf := c, ofl := c, sf := s.unspecified 0, zf := s.unspecified 1, pf := s.unspecified 2, af := s.unspecified 3 }).drawn 4

/-- The exact unsigned product (43_muldiv.md R291). -/
def mulResult {n : Nat} (a b : BitVec n) : Nat := a.toNat * b.toNat

/-- `MUL` on an operand that has been read (43_muldiv.md R291). -/
def mulWith (w : Width) (b : BitVec w.bits) (s : State) : State :=
  let p := mulResult (readReg w acc s) b
  let hi := BitVec.ofNat w.bits (p / 2 ^ w.bits)
  mulFlags (hi != 0) (writePair w (BitVec.ofNat w.bits p) hi s)

/-- The exact signed product (43_muldiv.md R293). -/
def imulResult {n : Nat} (a b : BitVec n) : Int := a.toInt * b.toInt

/-- `IMUL` on an operand that has been read (43_muldiv.md R293). -/
def imulWith (w : Width) (b : BitVec w.bits) (s : State) : State :=
  let p := imulResult (readReg w acc s) b
  let lo := BitVec.ofInt w.bits p
  mulFlags (decide (p ≠ lo.toInt)) (writePair w lo (BitVec.ofInt w.bits (p / 2 ^ w.bits)) s)

/-- All six status flags unspecified: CF, PF, AF, ZF, SF, OF, six bits drawn in that order (43_muldiv.md R296; log 20). -/
def divFlags (s : State) : State :=
  (s.setFlags { s.flags with cf := s.unspecified 0, pf := s.unspecified 1, af := s.unspecified 2, zf := s.unspecified 3, sf := s.unspecified 4, ofl := s.unspecified 5 }).drawn 6

/-- The unsigned dividend xN[2] ++ xN[0] (43_muldiv.md R294). -/
def divDividend (w : Width) (s : State) : Nat := (readReg w edx s).toNat * 2 ^ w.bits + (readReg w acc s).toNat

/-- `DIV` on a divisor that has been read (43_muldiv.md R294, R297). -/
def divWith (w : Width) (b : BitVec w.bits) (s : State) : Out State :=
  if b = 0 then raiseDivideByZero s
  else
    let q := divDividend w s / b.toNat
    let r := divDividend w s % b.toNat
    if q > 2 ^ w.bits - 1 then raiseDivisionOverflow s
    else .next (divFlags (writePair w (BitVec.ofNat w.bits q) (BitVec.ofNat w.bits r) s))

/-- The signed dividend, 2N bits (43_muldiv.md R295). -/
def idivDividend (w : Width) (s : State) : Int := (readReg w edx s).toInt * 2 ^ w.bits + (readReg w acc s).toNat

/-- `IDIV` on a divisor that has been read: the quotient toward zero (43_muldiv.md R295, R297). -/
def idivWith (w : Width) (b : BitVec w.bits) (s : State) : Out State :=
  if b = 0 then raiseDivideByZero s
  else
    let q := (idivDividend w s).tdiv b.toInt
    let r := idivDividend w s - q * b.toInt
    if q < -(2 ^ (w.bits - 1)) ∨ q > 2 ^ (w.bits - 1) - 1 then raiseDivisionOverflow s
    else .next (divFlags (writePair w (BitVec.ofInt w.bits q) (BitVec.ofInt w.bits r) s))

/-- MUL r/mv, opcode F7 /4 (43_muldiv.md R291). -/
def execMulRmv (d : Rm) (s : State) : Out State :=
  chain (rmRead s.osz d s) fun b => .next (mulWith s.osz b s)

/-- IMUL r/mv, opcode F7 /5 (43_muldiv.md R293). -/
def execImulRmv (d : Rm) (s : State) : Out State :=
  chain (rmRead s.osz d s) fun b => .next (imulWith s.osz b s)

/-- DIV r/mv, opcode F7 /6 (43_muldiv.md R294). -/
def execDivRmv (d : Rm) (s : State) : Out State :=
  chain (rmRead s.osz d s) fun b => divWith s.osz b s

/-- IDIV r/mv, opcode F7 /7 (43_muldiv.md R295). -/
def execIdivRmv (d : Rm) (s : State) : Out State :=
  chain (rmRead s.osz d s) fun b => idivWith s.osz b s

end Sys2Proof.Machine
end

