-- ==== Sys2Proof/Machine/PrefixBytes.lean ====
section
/-! DEFINITION. The eleven prefix bytes: each sets its field of PFX (30_encoding.md R134, 49_dispatch.md R476). -/

namespace Sys2Proof.Machine

open Sys2Proof


/-- ES prefix byte, opcode 26 (30_encoding.md R134). -/
def execSegEs (s : State) : Out State :=
  .next (s.setPfx { s.pfx with segEs := true })

/-- CS prefix byte, opcode 2E (30_encoding.md R134). -/
def execSegCs (s : State) : Out State :=
  .next (s.setPfx { s.pfx with segCs := true })

/-- SS prefix byte, opcode 36 (30_encoding.md R134). -/
def execSegSs (s : State) : Out State :=
  .next (s.setPfx { s.pfx with segSs := true })

/-- DS prefix byte, opcode 3E (30_encoding.md R134). -/
def execSegDs (s : State) : Out State :=
  .next (s.setPfx { s.pfx with segDs := true })

/-- FS prefix byte, opcode 64 (30_encoding.md R134). -/
def execSegFs (s : State) : Out State :=
  .next (s.setPfx { s.pfx with segFs := true })

/-- GS prefix byte, opcode 65 (30_encoding.md R134). -/
def execSegGs (s : State) : Out State :=
  .next (s.setPfx { s.pfx with segGs := true })

/-- OPSIZE prefix byte, opcode 66 (30_encoding.md R134). -/
def execOpSize (s : State) : Out State :=
  .next (s.setPfx { s.pfx with opovr := true, os32 := false })

/-- ADDRSIZE prefix byte, opcode 67 (30_encoding.md R134). -/
def execAddrSize (s : State) : Out State :=
  .next (s.setPfx { s.pfx with adovr := true, as32 := false })

/-- LOCK prefix byte, opcode F0 (30_encoding.md R134). -/
def execLock (s : State) : Out State :=
  .next (s.setPfx { s.pfx with lock := true })

/-- REPNZ prefix byte, opcode F2 (30_encoding.md R134). -/
def execRepnz (s : State) : Out State :=
  .next (s.setPfx { s.pfx with repnz := true })

/-- REPZ prefix byte, opcode F3 (30_encoding.md R134). -/
def execRepz (s : State) : Out State :=
  .next (s.setPfx { s.pfx with repz := true })

end Sys2Proof.Machine
end

