-- ==== Sys2Proof/Machine/Shift.lean ====
section
/-! DEFINITION. ROL ROR RCL RCR SHL SHR SAR (44_shift_rotate.md). -/

namespace Sys2Proof.Machine

open Sys2Proof

/-- The seven operations of the shift groups (44_shift_rotate.md R310). -/
inductive ShiftOp where
  | rol | ror | rcl | rcr | shl | shr | sar
  deriving DecidableEq, Repr

/-- The masked count (44_shift_rotate.md R312). -/
def maskedCount (raw : Byte) : Nat := (raw &&& 31#8).toNat

/-- `r` of ROL: rotate left by `c mod N` (44_shift_rotate.md R314). -/
def rolValue {n : Nat} (a : BitVec n) (c : Nat) : BitVec n :=
  let k := c % n
  if k > 0 then (a <<< k) ||| (a >>> (n - k)) else a

/-- `r` of ROR: rotate right by `c mod N` (44_shift_rotate.md R315). -/
def rorValue {n : Nat} (a : BitVec n) (c : Nat) : BitVec n :=
  let k := c % n
  if k > 0 then (a >>> k) ||| (a <<< (n - k)) else a

/-- `t` of RCL: CF and the operand, N + 1 bits, rotated left by `c mod (N + 1)` (44_shift_rotate.md R316). -/
def rclRing {n : Nat} (a : BitVec n) (cf : Bool) (c : Nat) : BitVec (n + 1) :=
  let k := c % (n + 1)
  let t := BitVec.cons cf a
  if k > 0 then (t <<< k) ||| (t >>> (n + 1 - k)) else t

/-- `t` of RCR: CF and the operand, N + 1 bits, rotated right by `c mod (N + 1)` (44_shift_rotate.md R317). -/
def rcrRing {n : Nat} (a : BitVec n) (cf : Bool) (c : Nat) : BitVec (n + 1) :=
  let k := c % (n + 1)
  let t := BitVec.cons cf a
  if k > 0 then (t >>> k) ||| (t <<< (n + 1 - k)) else t

/-- The loop of SHL: `cf = r[N-1]; r = trunc_N(r << 1)`, `c` times (44_shift_rotate.md R318). -/
def shlLoop {n : Nat} : Nat → BitVec n → Bool → BitVec n × Bool
  | 0, r, cf => (r, cf)
  | c + 1, r, _ => shlLoop c (r <<< 1) (r.getLsbD (n - 1))

/-- The loop of SHR: `cf = r[0]; r = r >> 1`, `c` times (44_shift_rotate.md R319). -/
def shrLoop {n : Nat} : Nat → BitVec n → Bool → BitVec n × Bool
  | 0, r, cf => (r, cf)
  | c + 1, r, _ => shrLoop c (r >>> 1) (r.getLsbD 0)

/-- The loop of SAR: `cf = r[0]; r = (s << (N-1)) | (r >> 1)`, `c` times, `s` the sign bit (44_shift_rotate.md R320). -/
def sarLoop {n : Nat} (sign : Bool) : Nat → BitVec n → Bool → BitVec n × Bool
  | 0, r, cf => (r, cf)
  | c + 1, r, _ => sarLoop sign c (((BitVec.ofBool sign).setWidth n <<< (n - 1)) ||| (r >>> 1)) (r.getLsbD 0)

/-- The result and the new CF for a masked count `c > 0` (44_shift_rotate.md R314 to R320). -/
def shiftResult {n : Nat} (op : ShiftOp) (a : BitVec n) (c : Nat) (cf : Bool) : BitVec n × Bool :=
  match op with
  | .rol => (rolValue a c, (rolValue a c).getLsbD 0)
  | .ror => (rorValue a c, (rorValue a c).getLsbD (n - 1))
  | .rcl => ((rclRing a cf c).setWidth n, (rclRing a cf c).getLsbD n)
  | .rcr => ((rcrRing a cf c).setWidth n, (rcrRing a cf c).getLsbD n)
  | .shl => shlLoop c a false
  | .shr => shrLoop c a false
  | .sar => sarLoop (a.getLsbD (n - 1)) c a false

/-- OF for a masked count of 1 (44_shift_rotate.md R313 to R320): `a` the operand, `r` the result, `cf` the new CF. -/
def shiftOverflow {n : Nat} (op : ShiftOp) (a r : BitVec n) (cf : Bool) : Bool :=
  match op with
  | .rol => r.getLsbD (n - 1) ^^ r.getLsbD 0
  | .ror => r.getLsbD (n - 1) ^^ r.getLsbD (n - 2)
  | .rcl => r.getLsbD (n - 1) ^^ cf
  | .rcr => r.getLsbD (n - 1) ^^ r.getLsbD (n - 2)
  | .shl => r.getLsbD (n - 1) ^^ cf
  | .shr => a.getLsbD (n - 1)
  | .sar => false

/-- Whether the operation is one of the shifts, which write SF, ZF, PF and leave AF unspecified (44_shift_rotate.md R318 to
R320); a rotate writes CF and OF only. -/
def ShiftOp.isShift : ShiftOp → Bool
  | .rol => false
  | .ror => false
  | .rcl => false
  | .rcr => false
  | .shl => true
  | .shr => true
  | .sar => true

/-- CF and OF; OF is unspecified when the masked count is not 1 (44_shift_rotate.md R313). -/
def shiftCarry {n : Nat} (op : ShiftOp) (a r : BitVec n) (c : Nat) (cf : Bool) (s : State) : State :=
  if c = 1 then s.setFlags { s.flags with cf := cf, ofl := shiftOverflow op a r cf }
  else (s.setFlags { s.flags with cf := cf, ofl := s.unspecified 0 }).drawn 1

/-- AF unspecified, and SF, ZF, PF from the result (44_shift_rotate.md R318 to R320). -/
def shiftSzp {n : Nat} (r : BitVec n) (s : State) : State :=
  (s.setFlags (flagsSzp r { s.flags with af := s.unspecified 0 })).drawn 1

/-- The flags of a masked count above 0, OF before AF as the rules write them (log 20). -/
def shiftFlags {n : Nat} (op : ShiftOp) (a r : BitVec n) (c : Nat) (cf : Bool) (s : State) : State :=
  if op.isShift then shiftSzp r (shiftCarry op a r c cf s) else shiftCarry op a r c cf s

/-- The common handler shape of the seven operations (44_shift_rotate.md R310, R311, R323). -/
def shiftRm (op : ShiftOp) (w : Width) (d : Rm) (raw : Byte) (s : State) : Out State :=
  chain (rmRead w d s) fun a =>
    let c := maskedCount raw
    if c = 0 then .next s
    else
      let (r, cf) := shiftResult op a c s.flags.cf
      chain (rmWrite w d r s) fun s1 => .next (shiftFlags op a r c cf s1)

/-- ROL r/mv, imm8, opcode C1 /0 (44_shift_rotate.md R314). -/
def execRolRmvImm8 (d : Rm) (imm : Byte) (s : State) : Out State :=
  shiftRm .rol s.osz d imm s

/-- ROL r/mv, 1, opcode D1 /0 (44_shift_rotate.md R314). -/
def execRolRmvOne (d : Rm) (s : State) : Out State :=
  shiftRm .rol s.osz d 1#8 s

/-- ROL r/mv, CL, opcode D3 /0 (44_shift_rotate.md R314). -/
def execRolRmvCl (d : Rm) (s : State) : Out State :=
  shiftRm .rol s.osz d (readReg .w8 ecx s) s

/-- ROR r/mv, imm8, opcode C1 /1 (44_shift_rotate.md R315). -/
def execRorRmvImm8 (d : Rm) (imm : Byte) (s : State) : Out State :=
  shiftRm .ror s.osz d imm s

/-- ROR r/mv, 1, opcode D1 /1 (44_shift_rotate.md R315). -/
def execRorRmvOne (d : Rm) (s : State) : Out State :=
  shiftRm .ror s.osz d 1#8 s

/-- ROR r/mv, CL, opcode D3 /1 (44_shift_rotate.md R315). -/
def execRorRmvCl (d : Rm) (s : State) : Out State :=
  shiftRm .ror s.osz d (readReg .w8 ecx s) s

/-- RCL r/mv, imm8, opcode C1 /2 (44_shift_rotate.md R316). -/
def execRclRmvImm8 (d : Rm) (imm : Byte) (s : State) : Out State :=
  shiftRm .rcl s.osz d imm s

/-- RCL r/mv, 1, opcode D1 /2 (44_shift_rotate.md R316). -/
def execRclRmvOne (d : Rm) (s : State) : Out State :=
  shiftRm .rcl s.osz d 1#8 s

/-- RCL r/mv, CL, opcode D3 /2 (44_shift_rotate.md R316). -/
def execRclRmvCl (d : Rm) (s : State) : Out State :=
  shiftRm .rcl s.osz d (readReg .w8 ecx s) s

/-- RCR r/mv, imm8, opcode C1 /3 (44_shift_rotate.md R317). -/
def execRcrRmvImm8 (d : Rm) (imm : Byte) (s : State) : Out State :=
  shiftRm .rcr s.osz d imm s

/-- RCR r/mv, 1, opcode D1 /3 (44_shift_rotate.md R317). -/
def execRcrRmvOne (d : Rm) (s : State) : Out State :=
  shiftRm .rcr s.osz d 1#8 s

/-- RCR r/mv, CL, opcode D3 /3 (44_shift_rotate.md R317). -/
def execRcrRmvCl (d : Rm) (s : State) : Out State :=
  shiftRm .rcr s.osz d (readReg .w8 ecx s) s

/-- SHL r/mv, imm8, opcode C1 /4 (44_shift_rotate.md R318). -/
def execShlRmvImm8 (d : Rm) (imm : Byte) (s : State) : Out State :=
  shiftRm .shl s.osz d imm s

/-- SHL r/mv, 1, opcode D1 /4 (44_shift_rotate.md R318). -/
def execShlRmvOne (d : Rm) (s : State) : Out State :=
  shiftRm .shl s.osz d 1#8 s

/-- SHL r/mv, CL, opcode D3 /4 (44_shift_rotate.md R318). -/
def execShlRmvCl (d : Rm) (s : State) : Out State :=
  shiftRm .shl s.osz d (readReg .w8 ecx s) s

/-- SHR r/mv, imm8, opcode C1 /5 (44_shift_rotate.md R319). -/
def execShrRmvImm8 (d : Rm) (imm : Byte) (s : State) : Out State :=
  shiftRm .shr s.osz d imm s

/-- SHR r/mv, 1, opcode D1 /5 (44_shift_rotate.md R319). -/
def execShrRmvOne (d : Rm) (s : State) : Out State :=
  shiftRm .shr s.osz d 1#8 s

/-- SHR r/mv, CL, opcode D3 /5 (44_shift_rotate.md R319). -/
def execShrRmvCl (d : Rm) (s : State) : Out State :=
  shiftRm .shr s.osz d (readReg .w8 ecx s) s

/-- SAR r/mv, imm8, opcode C1 /7 (44_shift_rotate.md R320). -/
def execSarRmvImm8 (d : Rm) (imm : Byte) (s : State) : Out State :=
  shiftRm .sar s.osz d imm s

/-- SAR r/mv, 1, opcode D1 /7 (44_shift_rotate.md R320). -/
def execSarRmvOne (d : Rm) (s : State) : Out State :=
  shiftRm .sar s.osz d 1#8 s

/-- SAR r/mv, CL, opcode D3 /7 (44_shift_rotate.md R320). -/
def execSarRmvCl (d : Rm) (s : State) : Out State :=
  shiftRm .sar s.osz d (readReg .w8 ecx s) s

end Sys2Proof.Machine
end

