-- ==== Sys2Proof/Machine/Stack.lean ====
section
/-! DEFINITION. PUSH, POP and LEAVE (46_stack.md). -/

namespace Sys2Proof.Machine

open Sys2Proof


/-- PUSH rv, opcode 50+r (46_stack.md R371). -/
def execPushRv (r : RegIdx) (s : State) : Out State :=
  push s.osz (readReg s.osz r s) s

/-- PUSH immv, opcode 68 (46_stack.md R372). -/
def execPushImmv (imm : Word) (s : State) : Out State :=
  push s.osz (immv s.osz imm) s

/-- PUSH imm8s, opcode 6A (46_stack.md R373). -/
def execPushImm8s (imm : Byte) (s : State) : Out State :=
  push s.osz (imm8s s.osz imm) s

/-- PUSH r/mv, opcode FF /6 (46_stack.md R374). -/
def execPushRmv (d : Rm) (s : State) : Out State :=
  chain (rmRead s.osz d s) fun v => push s.osz v s

/-- POP rv, opcode 58+r (46_stack.md R375). -/
def execPopRv (r : RegIdx) (s : State) : Out State :=
  chain (pop s.osz s) fun p => .next (writeReg s.osz r p.1 p.2)

/-- POP r/mv, opcode 8F (46_stack.md R376). -/
def execPopRmv (_x : RegIdx) (d : Rm) (s : State) : Out State :=
  addressedRm d s (chain (pop s.osz s) fun p => rmWrite s.osz d p.1 p.2)

/-- LEAVE, opcode C9 (46_stack.md R382). -/
def execLeave (s : State) : Out State :=
  if s.pfx.opovr then .refused .opsize16Leave
  else chain (pop .w32 (s.setReg esp (s.reg ebp))) fun p => .next (p.2.setReg ebp p.1)

end Sys2Proof.Machine
end

