-- ==== Sys2Proof/Machine/StringIo.lean ====
section
/-! DEFINITION. STOS, IN and OUT (48_string_io.md). -/

namespace Sys2Proof.Machine

open Sys2Proof

/-- How far STOS moves EDI, by DF (48_string_io.md R451). -/
def stosDelta (w : Width) (s : State) : Word :=
  if s.flags.df then -(BitVec.ofNat 32 w.bytes) else BitVec.ofNat 32 w.bytes

/-- `store_once()` (48_string_io.md R451). -/
def stosOnce (w : Width) (s : State) : Out State :=
  chain (store w (s.reg edi) (readReg w acc s) s) fun s1 => .next (s1.setReg edi (s1.reg edi + stosDelta w s1))

/-- The repeat of STOS: `count` items, ECX counted down by one for each (48_string_io.md R451; log 17). -/
def stosRepeat (w : Width) : (count : Nat) → State → Out State
  | 0, s => .next s
  | k + 1, s => chain (stosOnce w s) fun s1 => stosRepeat w k (s1.setReg ecx (s1.reg ecx - 1))

/-- Whether a repeat prefix is active (48_string_io.md R451): either of the two. -/
def State.repeating (s : State) : Bool := s.pfx.repz || s.pfx.repnz

/-- The repeat bits are consumed (48_string_io.md R451). -/
def clearRepeat (s : State) : State := s.setPfx { s.pfx with repz := false, repnz := false }

/-- IN with its port (48_string_io.md R456, R457). -/
def inPort (port : BitVec 16) (s : State) : State := writeReg .w8 acc (portIn port s).1 (portIn port s).2

/-- OUT with its port (48_string_io.md R458, R459). -/
def outPort (port : BitVec 16) (s : State) : State := portOut port (readReg .w8 acc s) s

/-- STOS, opcode AB (48_string_io.md R451). -/
def execStos (s : State) : Out State :=
  if s.pfx.as32 then
    chain (if s.repeating then stosRepeat s.osz (s.reg ecx).toNat s else stosOnce s.osz s) fun s1 => .next (clearRepeat s1)
  else .refused .addr16Stos

/-- IN AL, imm8, opcode E4 (48_string_io.md R456). -/
def execInAlImm8 (port : Byte) (s : State) : Out State :=
  .next (inPort (port.setWidth 16) s)

/-- IN AL, DX, opcode EC (48_string_io.md R457). -/
def execInAlDx (s : State) : Out State :=
  .next (inPort (readReg .w16 edx s) s)

/-- OUT imm8, AL, opcode E6 (48_string_io.md R458). -/
def execOutImm8Al (port : Byte) (s : State) : Out State :=
  .next (outPort (port.setWidth 16) s)

/-- OUT DX, AL, opcode EE (48_string_io.md R459). -/
def execOutDxAl (s : State) : Out State :=
  .next (outPort (readReg .w16 edx s) s)

end Sys2Proof.Machine
end

