-- ==== Sys2Proof/Machine/Dispatch.lean ====
section
/-! DEFINITION. The dispatch of every instruction to its meaning, one arm per constructor. -/

namespace Sys2Proof.Machine

open Sys2Proof

def exec (i : Instr) (s : State) : Host.Outcome State Fault Refusal :=
  match i with
  | .addRm8R8 d r => Sys2Proof.Machine.execAddRm8R8 d r s
  | .addRmvRv d r => Sys2Proof.Machine.execAddRmvRv d r s
  | .addR8Rm8 r d => Sys2Proof.Machine.execAddR8Rm8 r d s
  | .addRvRmv r d => Sys2Proof.Machine.execAddRvRmv r d s
  | .addAlImm8 imm => Sys2Proof.Machine.execAddAlImm8 imm s
  | .addEaxImmv imm => Sys2Proof.Machine.execAddEaxImmv imm s
  | .addRmvImmv d imm => Sys2Proof.Machine.execAddRmvImmv d imm s
  | .addRmvImm8s d imm => Sys2Proof.Machine.execAddRmvImm8s d imm s
  | .orRm8R8 d r => Sys2Proof.Machine.execOrRm8R8 d r s
  | .orRmvRv d r => Sys2Proof.Machine.execOrRmvRv d r s
  | .orR8Rm8 r d => Sys2Proof.Machine.execOrR8Rm8 r d s
  | .orRvRmv r d => Sys2Proof.Machine.execOrRvRmv r d s
  | .orAlImm8 imm => Sys2Proof.Machine.execOrAlImm8 imm s
  | .orEaxImmv imm => Sys2Proof.Machine.execOrEaxImmv imm s
  | .orRmvImmv d imm => Sys2Proof.Machine.execOrRmvImmv d imm s
  | .orRmvImm8s d imm => Sys2Proof.Machine.execOrRmvImm8s d imm s
  | .andRm8R8 d r => Sys2Proof.Machine.execAndRm8R8 d r s
  | .andRmvRv d r => Sys2Proof.Machine.execAndRmvRv d r s
  | .andR8Rm8 r d => Sys2Proof.Machine.execAndR8Rm8 r d s
  | .andRvRmv r d => Sys2Proof.Machine.execAndRvRmv r d s
  | .andAlImm8 imm => Sys2Proof.Machine.execAndAlImm8 imm s
  | .andEaxImmv imm => Sys2Proof.Machine.execAndEaxImmv imm s
  | .andRmvImmv d imm => Sys2Proof.Machine.execAndRmvImmv d imm s
  | .andRmvImm8s d imm => Sys2Proof.Machine.execAndRmvImm8s d imm s
  | .subRm8R8 d r => Sys2Proof.Machine.execSubRm8R8 d r s
  | .subRmvRv d r => Sys2Proof.Machine.execSubRmvRv d r s
  | .subR8Rm8 r d => Sys2Proof.Machine.execSubR8Rm8 r d s
  | .subRvRmv r d => Sys2Proof.Machine.execSubRvRmv r d s
  | .subAlImm8 imm => Sys2Proof.Machine.execSubAlImm8 imm s
  | .subEaxImmv imm => Sys2Proof.Machine.execSubEaxImmv imm s
  | .subRmvImmv d imm => Sys2Proof.Machine.execSubRmvImmv d imm s
  | .subRmvImm8s d imm => Sys2Proof.Machine.execSubRmvImm8s d imm s
  | .xorRm8R8 d r => Sys2Proof.Machine.execXorRm8R8 d r s
  | .xorRmvRv d r => Sys2Proof.Machine.execXorRmvRv d r s
  | .xorR8Rm8 r d => Sys2Proof.Machine.execXorR8Rm8 r d s
  | .xorRvRmv r d => Sys2Proof.Machine.execXorRvRmv r d s
  | .xorAlImm8 imm => Sys2Proof.Machine.execXorAlImm8 imm s
  | .xorEaxImmv imm => Sys2Proof.Machine.execXorEaxImmv imm s
  | .xorRmvImmv d imm => Sys2Proof.Machine.execXorRmvImmv d imm s
  | .xorRmvImm8s d imm => Sys2Proof.Machine.execXorRmvImm8s d imm s
  | .cmpRm8R8 d r => Sys2Proof.Machine.execCmpRm8R8 d r s
  | .cmpRmvRv d r => Sys2Proof.Machine.execCmpRmvRv d r s
  | .cmpR8Rm8 r d => Sys2Proof.Machine.execCmpR8Rm8 r d s
  | .cmpRvRmv r d => Sys2Proof.Machine.execCmpRvRmv r d s
  | .cmpAlImm8 imm => Sys2Proof.Machine.execCmpAlImm8 imm s
  | .cmpEaxImmv imm => Sys2Proof.Machine.execCmpEaxImmv imm s
  | .cmpRmvImmv d imm => Sys2Proof.Machine.execCmpRmvImmv d imm s
  | .cmpRmvImm8s d imm => Sys2Proof.Machine.execCmpRmvImm8s d imm s
  | .testRm8R8 d r => Sys2Proof.Machine.execTestRm8R8 d r s
  | .testRmvRv d r => Sys2Proof.Machine.execTestRmvRv d r s
  | .testAlImm8 imm => Sys2Proof.Machine.execTestAlImm8 imm s
  | .testEaxImmv imm => Sys2Proof.Machine.execTestEaxImmv imm s
  | .testRmvImmv d imm => Sys2Proof.Machine.execTestRmvImmv d imm s
  | .notRmv d => Sys2Proof.Machine.execNotRmv d s
  | .negRmv d => Sys2Proof.Machine.execNegRmv d s
  | .mulRmv d => Sys2Proof.Machine.execMulRmv d s
  | .imulRmv d => Sys2Proof.Machine.execImulRmv d s
  | .divRmv d => Sys2Proof.Machine.execDivRmv d s
  | .idivRmv d => Sys2Proof.Machine.execIdivRmv d s
  | .incRv r => Sys2Proof.Machine.execIncRv r s
  | .incRmv d => Sys2Proof.Machine.execIncRmv d s
  | .decRv r => Sys2Proof.Machine.execDecRv r s
  | .decRmv d => Sys2Proof.Machine.execDecRmv d s
  | .rolRmvImm8 d imm => Sys2Proof.Machine.execRolRmvImm8 d imm s
  | .rolRmvOne d => Sys2Proof.Machine.execRolRmvOne d s
  | .rolRmvCl d => Sys2Proof.Machine.execRolRmvCl d s
  | .rorRmvImm8 d imm => Sys2Proof.Machine.execRorRmvImm8 d imm s
  | .rorRmvOne d => Sys2Proof.Machine.execRorRmvOne d s
  | .rorRmvCl d => Sys2Proof.Machine.execRorRmvCl d s
  | .rclRmvImm8 d imm => Sys2Proof.Machine.execRclRmvImm8 d imm s
  | .rclRmvOne d => Sys2Proof.Machine.execRclRmvOne d s
  | .rclRmvCl d => Sys2Proof.Machine.execRclRmvCl d s
  | .rcrRmvImm8 d imm => Sys2Proof.Machine.execRcrRmvImm8 d imm s
  | .rcrRmvOne d => Sys2Proof.Machine.execRcrRmvOne d s
  | .rcrRmvCl d => Sys2Proof.Machine.execRcrRmvCl d s
  | .shlRmvImm8 d imm => Sys2Proof.Machine.execShlRmvImm8 d imm s
  | .shlRmvOne d => Sys2Proof.Machine.execShlRmvOne d s
  | .shlRmvCl d => Sys2Proof.Machine.execShlRmvCl d s
  | .shrRmvImm8 d imm => Sys2Proof.Machine.execShrRmvImm8 d imm s
  | .shrRmvOne d => Sys2Proof.Machine.execShrRmvOne d s
  | .shrRmvCl d => Sys2Proof.Machine.execShrRmvCl d s
  | .sarRmvImm8 d imm => Sys2Proof.Machine.execSarRmvImm8 d imm s
  | .sarRmvOne d => Sys2Proof.Machine.execSarRmvOne d s
  | .sarRmvCl d => Sys2Proof.Machine.execSarRmvCl d s
  | .movRm8R8 d r => Sys2Proof.Machine.execMovRm8R8 d r s
  | .movRmvRv d r => Sys2Proof.Machine.execMovRmvRv d r s
  | .movR8Rm8 r d => Sys2Proof.Machine.execMovR8Rm8 r d s
  | .movRvRmv r d => Sys2Proof.Machine.execMovRvRmv r d s
  | .movR8Imm8 r imm => Sys2Proof.Machine.execMovR8Imm8 r imm s
  | .movRvImmv r imm => Sys2Proof.Machine.execMovRvImmv r imm s
  | .movRm8Imm8 x d imm => Sys2Proof.Machine.execMovRm8Imm8 x d imm s
  | .movRmvImmv x d imm => Sys2Proof.Machine.execMovRmvImmv x d imm s
  | .lea r m => Sys2Proof.Machine.execLea r m s
  | .pushRv r => Sys2Proof.Machine.execPushRv r s
  | .pushImmv imm => Sys2Proof.Machine.execPushImmv imm s
  | .pushImm8s imm => Sys2Proof.Machine.execPushImm8s imm s
  | .pushRmv d => Sys2Proof.Machine.execPushRmv d s
  | .popRv r => Sys2Proof.Machine.execPopRv r s
  | .popRmv x d => Sys2Proof.Machine.execPopRmv x d s
  | .leave => Sys2Proof.Machine.execLeave s
  | .jmpRel8 rel => Sys2Proof.Machine.execJmpRel8 rel s
  | .jmpRel32 rel => Sys2Proof.Machine.execJmpRel32 rel s
  | .joRel8 rel => Sys2Proof.Machine.execJoRel8 rel s
  | .jnoRel8 rel => Sys2Proof.Machine.execJnoRel8 rel s
  | .jbRel8 rel => Sys2Proof.Machine.execJbRel8 rel s
  | .jaeRel8 rel => Sys2Proof.Machine.execJaeRel8 rel s
  | .jeRel8 rel => Sys2Proof.Machine.execJeRel8 rel s
  | .jneRel8 rel => Sys2Proof.Machine.execJneRel8 rel s
  | .jbeRel8 rel => Sys2Proof.Machine.execJbeRel8 rel s
  | .jaRel8 rel => Sys2Proof.Machine.execJaRel8 rel s
  | .jsRel8 rel => Sys2Proof.Machine.execJsRel8 rel s
  | .jnsRel8 rel => Sys2Proof.Machine.execJnsRel8 rel s
  | .jpRel8 rel => Sys2Proof.Machine.execJpRel8 rel s
  | .jnpRel8 rel => Sys2Proof.Machine.execJnpRel8 rel s
  | .jlRel8 rel => Sys2Proof.Machine.execJlRel8 rel s
  | .jgeRel8 rel => Sys2Proof.Machine.execJgeRel8 rel s
  | .jleRel8 rel => Sys2Proof.Machine.execJleRel8 rel s
  | .jgRel8 rel => Sys2Proof.Machine.execJgRel8 rel s
  | .joRel32 rel => Sys2Proof.Machine.execJoRel32 rel s
  | .jnoRel32 rel => Sys2Proof.Machine.execJnoRel32 rel s
  | .jbRel32 rel => Sys2Proof.Machine.execJbRel32 rel s
  | .jaeRel32 rel => Sys2Proof.Machine.execJaeRel32 rel s
  | .jeRel32 rel => Sys2Proof.Machine.execJeRel32 rel s
  | .jneRel32 rel => Sys2Proof.Machine.execJneRel32 rel s
  | .jbeRel32 rel => Sys2Proof.Machine.execJbeRel32 rel s
  | .jaRel32 rel => Sys2Proof.Machine.execJaRel32 rel s
  | .jsRel32 rel => Sys2Proof.Machine.execJsRel32 rel s
  | .jnsRel32 rel => Sys2Proof.Machine.execJnsRel32 rel s
  | .jpRel32 rel => Sys2Proof.Machine.execJpRel32 rel s
  | .jnpRel32 rel => Sys2Proof.Machine.execJnpRel32 rel s
  | .jlRel32 rel => Sys2Proof.Machine.execJlRel32 rel s
  | .jgeRel32 rel => Sys2Proof.Machine.execJgeRel32 rel s
  | .jleRel32 rel => Sys2Proof.Machine.execJleRel32 rel s
  | .jgRel32 rel => Sys2Proof.Machine.execJgRel32 rel s
  | .callRel32 rel => Sys2Proof.Machine.execCallRel32 rel s
  | .callRm32 d => Sys2Proof.Machine.execCallRm32 d s
  | .ret => Sys2Proof.Machine.execRet s
  | .intImm8 v => Sys2Proof.Machine.execIntImm8 v s
  | .stos => Sys2Proof.Machine.execStos s
  | .inAlImm8 port => Sys2Proof.Machine.execInAlImm8 port s
  | .inAlDx => Sys2Proof.Machine.execInAlDx s
  | .outImm8Al port => Sys2Proof.Machine.execOutImm8Al port s
  | .outDxAl => Sys2Proof.Machine.execOutDxAl s
  | .segEs => Sys2Proof.Machine.execSegEs s
  | .segCs => Sys2Proof.Machine.execSegCs s
  | .segSs => Sys2Proof.Machine.execSegSs s
  | .segDs => Sys2Proof.Machine.execSegDs s
  | .segFs => Sys2Proof.Machine.execSegFs s
  | .segGs => Sys2Proof.Machine.execSegGs s
  | .opSize => Sys2Proof.Machine.execOpSize s
  | .addrSize => Sys2Proof.Machine.execAddrSize s
  | .lock => Sys2Proof.Machine.execLock s
  | .repnz => Sys2Proof.Machine.execRepnz s
  | .repz => Sys2Proof.Machine.execRepz s

end Sys2Proof.Machine
end

