-- ==== Sys2Proof/Machine/Step.lean ====
section
/-! DEFINITION. The step of the machine, and the placing of an instruction where the next step fetches it. -/

namespace Sys2Proof.Machine

open Sys2Proof

/-- `step()` (49_dispatch.md R485): exactly one instruction with its prefix bytes, a fault with the state as before, or a
refusal. The notice of 49_dispatch.md R486 is in the next state's `notice`. -/
def step (s : State) : Host.Outcome State Fault Refusal := stepWith exec s

/-- `s` with the instruction of `nbits` bits `w`, and zeros after it, in memory at IP: the host's loading of a program
(70_reset_and_hazards.md R541; log 21). -/
def State.withFetchWord (s : State) (nbits w : Nat) : State := s.placeTableWord nbits w

end Sys2Proof.Machine
end

