-- ==== Sys2Proof/Machine/HostAccess.lean ====
section
/-! DEFINITION. What the host may write between steps: registers, flags, IP and memory, never PFX
(70_reset_and_hazards.md R541). -/

namespace Sys2Proof.Machine

open Sys2Proof

/-- One write of the host between steps (70_reset_and_hazards.md R541; log 22). -/
inductive HostWrite where
  | reg (i : RegIdx) (v : Word)
  | flags (f : Flags)
  | ip (v : Word)
  /-- a byte of memory, subject to the same bounds. -/
  | byte (a : Word) (v : Byte)
  deriving DecidableEq, Repr

/-- A write of the host carried out; a byte outside memory is out of bounds as any access is, and here it changes nothing
(log 6). -/
def State.hostWrite (s : State) : HostWrite → State
  | .reg i v => s.setReg i v
  | .flags f => s.setFlags f
  | .ip v => s.setIp v
  | .byte a v => s.setMem (s.mem.hostWrites [(a.toNat, v)])

/-- Several writes of the host, in order. -/
def State.hostWrites (s : State) : List HostWrite → State
  | [] => s
  | w :: ws => (s.hostWrite w).hostWrites ws

end Sys2Proof.Machine
end

