-- ==== Sys2Proof/Machine/Run.lean ====
section
/-! DEFINITION. `run_until` and its result (49_dispatch.md R487), with a bound on the number of steps (log 14). -/

namespace Sys2Proof.Machine

open Sys2Proof

/-- How a run ends (49_dispatch.md R487), with the state then and the notices in order. After a fault or a refusal the
state is the one before the step that did not complete (60_exceptions.md R505). -/
inductive RunEnd where
  /-- the predicate holds. -/
  | stoppedByPredicate (s : State) (notices : List Notice)
  /-- a step faulted; the last good instruction pointer is the state's IP. -/
  | halted (s : State) (r : Fault) (notices : List Notice)
  /-- a step was refused: a model must not continue (00_scope.md R8). -/
  | stoppedByRefusal (s : State) (r : Refusal) (notices : List Notice)
  /-- the host's budget of steps is spent (49_dispatch.md R488). -/
  | budgetSpent (s : State) (notices : List Notice)
  deriving DecidableEq, Repr

/-- `run_until(pred)` (49_dispatch.md R487): the predicate is tested before each step, a notice does not stop the run, a
fault does; at most `budget` steps. -/
def runUntil (pred : State → Bool) : (budget : Nat) → State → List Notice → RunEnd
  | 0, s, ns => if pred s then .stoppedByPredicate s ns else .budgetSpent s ns
  | k + 1, s, ns =>
    if pred s then .stoppedByPredicate s ns
    else
      match step s with
      | .next s1 => runUntil pred k s1 (ns ++ s1.notice.toList)
      | .fault r => .halted s r ns
      | .refused r => .stoppedByRefusal s r ns

end Sys2Proof.Machine
end

