-- ==== Sys2Proof/Safety.lean ====
section
/-! DEFINITION. The fields of an encoding, the invariant between steps, and the terms the statements use: what an operand
holds, what a write changes and leaves alone, what each flag says in terms of numbers, and which forms name memory. -/

namespace Sys2Proof

/-! ## The fields of an encoding -/

/-- The widths in bytes of the fields fetched after the ModRM byte of a memory operand: SIB, then the displacement
(41_addressing.md R181, R189). -/
def MemOperand.fieldWidths : MemOperand → List Nat
  | .base _ => []
  | .disp32 _ => [4]
  | .baseDisp8 _ _ => [1]
  | .baseDisp32 _ _ => [4]
  | .sib _ _ _ => [1]
  | .sibDisp8 _ _ _ _ => [1, 1]
  | .sibDisp32 _ _ _ _ => [1, 4]

/-- The same with the ModRM byte (41_addressing.md R181). -/
def Rm.fieldWidths : Rm → List Nat
  | .reg _ => [1]
  | .mem o => 1 :: o.fieldWidths

/-- The widths in bytes of the fields of an encoding, in the order in which they are fetched (49_dispatch.md R490):
the opcode bytes, ModRM, SIB, displacement, immediate or offset (30_encoding.md R102, R108, R120 to R134). -/
def Instr.fieldWidths (m : DecodeMode) : Instr → List Nat
  | .incRv _ | .decRv _ | .pushRv _ | .popRv _ | .leave | .ret | .stos | .inAlDx | .outDxAl | .segEs | .segCs
  | .segSs | .segDs | .segFs | .segGs | .opSize | .addrSize | .lock | .repnz | .repz => [1]
  | .addAlImm8 _ | .orAlImm8 _ | .andAlImm8 _ | .subAlImm8 _ | .xorAlImm8 _ | .cmpAlImm8 _ | .testAlImm8 _
  | .movR8Imm8 _ _ | .pushImm8s _ | .jmpRel8 _ | .joRel8 _ | .jnoRel8 _ | .jbRel8 _ | .jaeRel8 _ | .jeRel8 _
  | .jneRel8 _ | .jbeRel8 _ | .jaRel8 _ | .jsRel8 _ | .jnsRel8 _ | .jpRel8 _ | .jnpRel8 _ | .jlRel8 _ | .jgeRel8 _
  | .jleRel8 _ | .jgRel8 _ | .intImm8 _ | .inAlImm8 _ | .outImm8Al _ => [1, 1]
  | .addEaxImmv _ | .orEaxImmv _ | .andEaxImmv _ | .subEaxImmv _ | .xorEaxImmv _ | .cmpEaxImmv _ | .testEaxImmv _
  | .movRvImmv _ _ | .pushImmv _ => [1, m.ivBytes]
  | .jmpRel32 _ | .callRel32 _ => [1, 4]
  | .joRel32 _ | .jnoRel32 _ | .jbRel32 _ | .jaeRel32 _ | .jeRel32 _ | .jneRel32 _ | .jbeRel32 _ | .jaRel32 _
  | .jsRel32 _ | .jnsRel32 _ | .jpRel32 _ | .jnpRel32 _ | .jlRel32 _ | .jgeRel32 _ | .jleRel32 _ | .jgRel32 _
    => [1, 1, 4]
  | .lea _ o => 1 :: 1 :: o.fieldWidths
  | .addRm8R8 d _ | .addRmvRv d _ | .addR8Rm8 _ d | .addRvRmv _ d | .orRm8R8 d _ | .orRmvRv d _ | .orR8Rm8 _ d
  | .orRvRmv _ d | .andRm8R8 d _ | .andRmvRv d _ | .andR8Rm8 _ d | .andRvRmv _ d | .subRm8R8 d _ | .subRmvRv d _
  | .subR8Rm8 _ d | .subRvRmv _ d | .xorRm8R8 d _ | .xorRmvRv d _ | .xorR8Rm8 _ d | .xorRvRmv _ d | .cmpRm8R8 d _
  | .cmpRmvRv d _ | .cmpR8Rm8 _ d | .cmpRvRmv _ d | .testRm8R8 d _ | .testRmvRv d _ | .notRmv d | .negRmv d
  | .mulRmv d | .imulRmv d | .divRmv d | .idivRmv d | .incRmv d | .decRmv d | .rolRmvOne d | .rolRmvCl d
  | .rorRmvOne d | .rorRmvCl d | .rclRmvOne d | .rclRmvCl d | .rcrRmvOne d | .rcrRmvCl d | .shlRmvOne d
  | .shlRmvCl d | .shrRmvOne d | .shrRmvCl d | .sarRmvOne d | .sarRmvCl d | .movRm8R8 d _ | .movRmvRv d _
  | .movR8Rm8 _ d | .movRvRmv _ d | .pushRmv d | .popRmv _ d | .callRm32 d => 1 :: d.fieldWidths
  | .addRmvImm8s d _ | .orRmvImm8s d _ | .andRmvImm8s d _ | .subRmvImm8s d _ | .xorRmvImm8s d _ | .cmpRmvImm8s d _
  | .rolRmvImm8 d _ | .rorRmvImm8 d _ | .rclRmvImm8 d _ | .rcrRmvImm8 d _ | .shlRmvImm8 d _ | .shrRmvImm8 d _
  | .sarRmvImm8 d _ | .movRm8Imm8 _ d _ => 1 :: (d.fieldWidths ++ [1])
  | .addRmvImmv d _ | .orRmvImmv d _ | .andRmvImmv d _ | .subRmvImmv d _ | .xorRmvImmv d _ | .cmpRmvImmv d _
  | .testRmvImmv d _ | .movRmvImmv _ d _ => 1 :: (d.fieldWidths ++ [m.ivBytes])

/-- The first bytes that a ModRM byte follows (30_encoding.md R120, R124, R125, R127, R128, R130, R131). -/
def modrmOpcodes : List Byte :=
  [0x00#8, 0x01#8, 0x02#8, 0x03#8, 0x08#8, 0x09#8, 0x0A#8, 0x0B#8, 0x20#8, 0x21#8, 0x22#8, 0x23#8, 0x28#8, 0x29#8] ++
  [0x2A#8, 0x2B#8, 0x30#8, 0x31#8, 0x32#8, 0x33#8, 0x38#8, 0x39#8, 0x3A#8, 0x3B#8, 0x81#8, 0x83#8, 0x84#8, 0x85#8] ++
  [0x88#8, 0x89#8, 0x8A#8, 0x8B#8, 0x8D#8, 0x8F#8, 0xC1#8, 0xC6#8, 0xC7#8, 0xD1#8, 0xD3#8, 0xF7#8, 0xFF#8]

/-- The first bytes that a relative offset follows: the short conditional jumps, CALL, JMP (30_encoding.md R123, R129). -/
def relOpcodes : List Byte :=
  [0x70#8, 0x71#8, 0x72#8, 0x73#8, 0x74#8, 0x75#8, 0x76#8, 0x77#8, 0x78#8, 0x79#8, 0x7A#8, 0x7B#8, 0x7C#8, 0x7D#8] ++
  [0x7E#8, 0x7F#8, 0xE8#8, 0xE9#8, 0xEB#8]

end Sys2Proof

namespace Sys2Proof.Machine

open Sys2Proof

/-! ## The invariant between steps -/

/-- Between steps only the repeat bits and the default sizes can be set, and the default sizes are (10_state.md R39). -/
def PrefixState.BetweenSteps (p : PrefixState) : Prop :=
  p.segEs = false ∧ p.segCs = false ∧ p.segSs = false ∧ p.segDs = false ∧ p.segFs = false ∧ p.segGs = false ∧
    p.opovr = false ∧ p.adovr = false ∧ p.lock = false ∧ p.os32 = true ∧ p.as32 = true

/-- The invariant of the machine between steps: PFX as 10_state.md R39 says, a memory in canonical form, and a capacity that
00_scope.md R9 allows. -/
def State.Inv (s : State) : Prop :=
  s.pfx.BetweenSteps ∧ s.mem.wf = true ∧ 1 ≤ s.mem.capacity ∧ s.mem.capacity ≤ 2 ^ 32

/-! ## What a state keeps -/

/-- Whether an address is one of the `n` bytes from `a` on. -/
def inField (a n b : Nat) : Prop := a ≤ b ∧ b < a + n

/-- Every register is as before. -/
def RegsKept (s t : State) : Prop := ∀ i, t.reg i = s.reg i

/-- Every register but the one with index `j` is as before. -/
def RegsKeptBut (j : RegIdx) (s t : State) : Prop := ∀ i, i ≠ j → t.reg i = s.reg i

/-- Every byte of memory reads as before. -/
def BytesKept (s t : State) : Prop := ∀ b, t.mem.byte b = s.mem.byte b

/-- Every byte of memory outside the `n` bytes from `a` on reads as before. -/
def BytesKeptBut (a n : Nat) (s t : State) : Prop := ∀ b, ¬ inField a n b → t.mem.byte b = s.mem.byte b

/-- PFX, the capacity of memory, the calls to the host and the error-record fields are as before. -/
def SameOutside (s t : State) : Prop :=
  t.pfx = s.pfx ∧ t.mem.capacity = s.mem.capacity ∧ t.ipStart = s.ipStart ∧ t.notice = s.notice ∧
    t.hostCalls = s.hostCalls

/-- The same, with IP as before and no unspecified bit drawn. -/
def SameElse (s t : State) : Prop := SameOutside s t ∧ t.ip = s.ip ∧ t.freeCount = s.freeCount

/-! ## Operands -/

/-- The 32-bit register an operand index is a view of (10_state.md R23, R24). -/
def regOwner : Width → RegIdx → RegIdx
  | .w8, i => byteOwner i
  | .w16, i => i
  | .w32, i => i

/-- The lowest bit of the owning register that the view takes (10_state.md R23, R24). -/
def viewLow : Width → RegIdx → Nat
  | .w8, i => if i.toNat < 4 then 0 else 8
  | .w16, _ => 0
  | .w32, _ => 0

/-- Whether a bit of the owning register belongs to the view. -/
def inView (w : Width) (i : RegIdx) (k : Nat) : Prop := viewLow w i ≤ k ∧ k < viewLow w i + w.bits

/-- The register operand `i` of width `w` now holds `v`; the other bits of its owner and every other register are as before
(10_state.md R26). -/
def RegWritten (w : Width) (i : RegIdx) (v : BitVec w.bits) (s t : State) : Prop :=
  readReg w i t = v ∧ RegsKeptBut (regOwner w i) s t ∧
    ∀ k, ¬ inView w i k → (t.reg (regOwner w i)).getLsbD k = (s.reg (regOwner w i)).getLsbD k

/-- The operand can be read and written: a memory operand lies in memory and the address size is 32
(20_memory.md R61, 41_addressing.md R184). -/
def Accessible (w : Width) (d : Rm) (s : State) : Prop :=
  match d with
  | .reg _ => True
  | .mem o => s.pfx.as32 = true ∧ (ea o s).toNat + w.bytes ≤ s.mem.capacity

/-- What the operand holds. -/
def operand (w : Width) (d : Rm) (s : State) : BitVec w.bits :=
  match d with
  | .reg r => readReg w r s
  | .mem o => s.mem.read (ea o s).toNat w

/-- The operand now holds `v` and nothing else of the registers and memory has changed; a memory operand is the one at the
address computed before the instruction. -/
def Written (w : Width) (d : Rm) (v : BitVec w.bits) (s t : State) : Prop :=
  match d with
  | .reg r => RegWritten w r v s t ∧ BytesKept s t
  | .mem o => t.mem.read (ea o s).toNat w = v ∧ BytesKeptBut (ea o s).toNat w.bytes s t ∧ RegsKept s t

/-! ## Flags in terms of numbers -/

/-- SF, ZF, PF say: negative, zero, an even number of 1 bits in the low byte (40_flags.md R155, R158). -/
def SzpOf {n : Nat} (r : BitVec n) (g : Flags) : Prop :=
  (g.sf = true ↔ r.toInt < 0) ∧ (g.zf = true ↔ r.toNat = 0) ∧
    (g.pf = true ↔ (List.range 8).countP (fun k => r.getLsbD k) % 2 = 0)

/-- TF, IF and DF are as before (40_flags.md R160). -/
def StoredFlagsKept (f g : Flags) : Prop := g.tf = f.tf ∧ g.ifl = f.ifl ∧ g.df = f.df

/-- Whether an integer is a signed number of `n` bits. -/
def FitsSigned (n : Nat) (z : Int) : Prop := -(2 ^ (n - 1)) ≤ z ∧ z ≤ 2 ^ (n - 1) - 1

/-- The flags after an addition of `a` and `b` with result `r` (40_flags.md R159). -/
def AddFlags {n : Nat} (a b r : BitVec n) (f g : Flags) : Prop :=
  (g.cf = true ↔ 2 ^ n ≤ a.toNat + b.toNat) ∧ (g.ofl = true ↔ ¬ FitsSigned n (a.toInt + b.toInt)) ∧
    (g.af = true ↔ 16 ≤ a.toNat % 16 + b.toNat % 16) ∧ SzpOf r g ∧ StoredFlagsKept f g

/-- The flags after a subtraction of `b` from `a` with result `r` (40_flags.md R159). -/
def SubFlags {n : Nat} (a b r : BitVec n) (f g : Flags) : Prop :=
  (g.cf = true ↔ a.toNat < b.toNat) ∧ (g.ofl = true ↔ ¬ FitsSigned n (a.toInt - b.toInt)) ∧
    (g.af = true ↔ a.toNat % 16 < b.toNat % 16) ∧ SzpOf r g ∧ StoredFlagsKept f g

/-- The flags after a logical operation with result `r` (40_flags.md R154). -/
def LogicFlags {n : Nat} (r : BitVec n) (f g : Flags) : Prop :=
  g.cf = false ∧ g.ofl = false ∧ g.af = false ∧ SzpOf r g ∧ StoredFlagsKept f g

/-- The flags after INC of `a` with result `r` (40_flags.md R156): CF is kept. -/
def IncFlags {n : Nat} (a r : BitVec n) (f g : Flags) : Prop :=
  g.cf = f.cf ∧ (g.ofl = true ↔ a.toNat = 2 ^ (n - 1) - 1) ∧ (g.af = true ↔ a.toNat % 16 = 15) ∧ SzpOf r g ∧
    StoredFlagsKept f g

/-- The flags after DEC of `a` with result `r` (40_flags.md R156): CF is kept. -/
def DecFlags {n : Nat} (a r : BitVec n) (f g : Flags) : Prop :=
  g.cf = f.cf ∧ (g.ofl = true ↔ a.toNat = 2 ^ (n - 1)) ∧ (g.af = true ↔ a.toNat % 16 = 0) ∧ SzpOf r g ∧
    StoredFlagsKept f g

/-- The flags after NEG of `a` with result `r` (40_flags.md R157). -/
def NegFlags {n : Nat} (a r : BitVec n) (f g : Flags) : Prop :=
  (g.cf = true ↔ a.toNat ≠ 0) ∧ (g.ofl = true ↔ a.toNat = 2 ^ (n - 1)) ∧ (g.af = true ↔ a.toNat % 16 ≠ 0) ∧
    SzpOf r g ∧ StoredFlagsKept f g

/-- What a two-operand operation computes (42_arith_logic.md R210), in terms of numbers and bits. -/
def AluValue {n : Nat} (op : AluOp) (a b r : BitVec n) : Prop :=
  match op with
  | .add => r.toNat = (a.toNat + b.toNat) % 2 ^ n
  | .or => ∀ k, r.getLsbD k = (a.getLsbD k || b.getLsbD k)
  | .and => ∀ k, r.getLsbD k = (a.getLsbD k && b.getLsbD k)
  | .sub => (r.toNat + b.toNat) % 2 ^ n = a.toNat
  | .xor => ∀ k, r.getLsbD k = (a.getLsbD k ^^ b.getLsbD k)
  | .cmp => (r.toNat + b.toNat) % 2 ^ n = a.toNat
  | .test => ∀ k, r.getLsbD k = (a.getLsbD k && b.getLsbD k)

/-- The flags a two-operand operation leaves (42_arith_logic.md R210). -/
def AluFlagsOf {n : Nat} (op : AluOp) (a b r : BitVec n) (f g : Flags) : Prop :=
  match op with
  | .add => AddFlags a b r f g
  | .sub => SubFlags a b r f g
  | .cmp => SubFlags a b r f g
  | .or => LogicFlags r f g
  | .and => LogicFlags r f g
  | .xor => LogicFlags r f g
  | .test => LogicFlags r f g

/-- An instruction completes a two-operand operation on `a` and `b`: it answers a next state in which the result stands in
`d` (nothing is written by CMP and TEST), the flags are those of the operation, and all else is as before. -/
def AluDone (op : AluOp) (w : Width) (d : Rm) (a b : BitVec w.bits) (s : State) (out : Out State) : Prop :=
  ∃ (r : BitVec w.bits) (t : State), out = .next t ∧ AluValue op a b r ∧ AluFlagsOf op a b r s.flags t.flags ∧
    SameElse s t ∧
    match op with
    | .cmp => RegsKept s t ∧ BytesKept s t
    | .test => RegsKept s t ∧ BytesKept s t
    | .add => Written w d r s t
    | .or => Written w d r s t
    | .and => Written w d r s t
    | .sub => Written w d r s t
    | .xor => Written w d r s t

/-! ## Faults -/

/-- The `ip_start` of an error record (60_exceptions.md R512). -/
def Fault.ipStart : Fault → Word
  | .outOfBoundsMemoryAccess p _ _ _ => p
  | .unimplementedOpcode p _ => p
  | .divideByZero p => p
  | .divisionOverflow p => p

/-- Whether an instruction is a control transfer, which sets IP itself (47_control_transfer.md R390, R420, R422). -/
def isTransfer : Instr → Bool
  | .jmpRel8 _ | .jmpRel32 _ | .callRel32 _ | .callRm32 _ | .ret => true
  | .joRel8 _ | .jnoRel8 _ | .jbRel8 _ | .jaeRel8 _ | .jeRel8 _ | .jneRel8 _ | .jbeRel8 _ | .jaRel8 _ => true
  | .jsRel8 _ | .jnsRel8 _ | .jpRel8 _ | .jnpRel8 _ | .jlRel8 _ | .jgeRel8 _ | .jleRel8 _ | .jgRel8 _ => true
  | .joRel32 _ | .jnoRel32 _ | .jbRel32 _ | .jaeRel32 _ | .jeRel32 _ | .jneRel32 _ | .jbeRel32 _ | .jaRel32 _ => true
  | .jsRel32 _ | .jnsRel32 _ | .jpRel32 _ | .jnpRel32 _ | .jlRel32 _ | .jgeRel32 _ | .jleRel32 _ | .jgRel32 _ => true
  | _ => false

/-- Whether an instruction calls the host (60_exceptions.md R526). -/
def callsHost : Instr → Bool
  | .inAlImm8 _ | .inAlDx | .outImm8Al _ | .outDxAl | .intImm8 _ => true
  | _ => false

/-! ## The forms with a memory operand -/

/-- The 8-bit forms that read their memory operand first. -/
def byteReaders (d : Rm) (r : RegIdx) : List Instr :=
  [.addRm8R8 d r, .orRm8R8 d r, .andRm8R8 d r, .subRm8R8 d r, .xorRm8R8 d r, .cmpRm8R8 d r, .testRm8R8 d r,
    .addR8Rm8 r d, .orR8Rm8 r d, .andR8Rm8 r d, .subR8Rm8 r d, .xorR8Rm8 r d, .cmpR8Rm8 r d, .movR8Rm8 r d]

/-- The 8-bit forms that only write their memory operand. -/
def byteWriters (d : Rm) (r : RegIdx) (b : Byte) : List Instr := [.movRm8R8 d r, .movRm8Imm8 r d b]

/-- The forms of the operand size, a register beside the memory operand, that read it first. -/
def wideRegReaders (d : Rm) (r : RegIdx) : List Instr :=
  [.addRmvRv d r, .orRmvRv d r, .andRmvRv d r, .subRmvRv d r, .xorRmvRv d r, .cmpRmvRv d r, .testRmvRv d r,
    .addRvRmv r d, .orRvRmv r d, .andRvRmv r d, .subRvRmv r d, .xorRvRmv r d, .cmpRvRmv r d, .movRvRmv r d]

/-- The forms of the operand size with an immediate that read their memory operand first. -/
def wideImmReaders (d : Rm) (b : Byte) (v : Word) : List Instr :=
  [.addRmvImmv d v, .orRmvImmv d v, .andRmvImmv d v, .subRmvImmv d v, .xorRmvImmv d v, .cmpRmvImmv d v,
    .addRmvImm8s d b, .orRmvImm8s d b, .andRmvImm8s d b, .subRmvImm8s d b, .xorRmvImm8s d b, .cmpRmvImm8s d b,
    .testRmvImmv d v]

/-- The one-operand forms that read their memory operand first. -/
def wideUnaryReaders (d : Rm) : List Instr :=
  [.notRmv d, .negRmv d, .incRmv d, .decRmv d, .mulRmv d, .imulRmv d, .divRmv d, .idivRmv d, .pushRmv d]

/-- The shifts and rotates, which read their memory operand first. -/
def wideShifts (d : Rm) (b : Byte) : List Instr :=
  [.rolRmvImm8 d b, .rorRmvImm8 d b, .rclRmvImm8 d b, .rcrRmvImm8 d b, .shlRmvImm8 d b, .shrRmvImm8 d b, .sarRmvImm8 d b,
    .rolRmvOne d, .rorRmvOne d, .rclRmvOne d, .rcrRmvOne d, .shlRmvOne d, .shrRmvOne d, .sarRmvOne d,
    .rolRmvCl d, .rorRmvCl d, .rclRmvCl d, .rcrRmvCl d, .shlRmvCl d, .shrRmvCl d, .sarRmvCl d]

/-- All the forms of the operand size that read their memory operand first. -/
def wideReaders (d : Rm) (r : RegIdx) (b : Byte) (v : Word) : List Instr :=
  wideRegReaders d r ++ wideImmReaders d b v ++ wideUnaryReaders d ++ wideShifts d b

/-- The forms of the operand size that only write their memory operand. -/
def wideWriters (d : Rm) (r : RegIdx) (v : Word) : List Instr := [.movRmvRv d r, .movRmvImmv r d v]

/-- The forms that need the address of a memory operand and do otherwise with it. -/
def otherAddressed (o : MemOperand) (r : RegIdx) : List Instr := [.lea r o, .popRmv r (.mem o), .callRm32 (.mem o)]

/-- All the forms with a memory operand. -/
def allAddressed (o : MemOperand) (r : RegIdx) (b : Byte) (v : Word) : List Instr :=
  byteReaders (.mem o) r ++ byteWriters (.mem o) r b ++ wideReaders (.mem o) r b v ++ wideWriters (.mem o) r v ++
    otherAddressed o r

/-! ## Encodings outside the map -/

/-- The unmapped first bytes: the dots of the one-byte map of 30_encoding.md R135. -/
def unmappedFirstBytes : List Byte :=
  [0x06#8, 0x07#8, 0x0E#8, 0x10#8, 0x11#8, 0x12#8, 0x13#8, 0x14#8, 0x15#8, 0x16#8, 0x17#8, 0x18#8, 0x19#8, 0x1A#8] ++
  [0x1B#8, 0x1C#8, 0x1D#8, 0x1E#8, 0x1F#8, 0x27#8, 0x2F#8, 0x37#8, 0x3F#8, 0x60#8, 0x61#8, 0x62#8, 0x63#8, 0x69#8] ++
  [0x6B#8, 0x6C#8, 0x6D#8, 0x6E#8, 0x6F#8, 0x80#8, 0x82#8, 0x86#8, 0x87#8, 0x8C#8, 0x8E#8, 0x90#8, 0x91#8, 0x92#8] ++
  [0x93#8, 0x94#8, 0x95#8, 0x96#8, 0x97#8, 0x98#8, 0x99#8, 0x9A#8, 0x9B#8, 0x9C#8, 0x9D#8, 0x9E#8, 0x9F#8, 0xA0#8] ++
  [0xA1#8, 0xA2#8, 0xA3#8, 0xA4#8, 0xA5#8, 0xA6#8, 0xA7#8, 0xAA#8, 0xAC#8, 0xAD#8, 0xAE#8, 0xAF#8, 0xC0#8, 0xC2#8] ++
  [0xC4#8, 0xC5#8, 0xC8#8, 0xCA#8, 0xCB#8, 0xCC#8, 0xCE#8, 0xCF#8, 0xD0#8, 0xD2#8, 0xD4#8, 0xD5#8, 0xD6#8, 0xD7#8] ++
  [0xD8#8, 0xD9#8, 0xDA#8, 0xDB#8, 0xDC#8, 0xDD#8, 0xDE#8, 0xDF#8, 0xE0#8, 0xE1#8, 0xE2#8, 0xE3#8, 0xE5#8, 0xE7#8] ++
  [0xEA#8, 0xED#8, 0xEF#8, 0xF1#8, 0xF4#8, 0xF5#8, 0xF6#8, 0xF8#8, 0xF9#8, 0xFA#8, 0xFB#8, 0xFC#8, 0xFD#8, 0xFE#8]

/-- The group opcodes with the reg values they do not map (49_dispatch.md R472). -/
def unmappedGroupRegs : List (Byte × RegIdx) :=
  [(0x81#8, 2#3), (0x81#8, 3#3), (0x83#8, 2#3), (0x83#8, 3#3), (0xC1#8, 6#3), (0xD1#8, 6#3), (0xD3#8, 6#3),
    (0xF7#8, 1#3), (0xFF#8, 3#3), (0xFF#8, 4#3), (0xFF#8, 5#3), (0xFF#8, 7#3)]

/-! ## The stack -/

/-- `v` has been pushed (20_memory.md R70): ESP is lower by the item's bytes, the item stands at the new ESP, and no other
register or byte has changed. -/
def Pushed (w : Width) (v : BitVec w.bits) (s t : State) : Prop :=
  t.reg esp = s.reg esp - BitVec.ofNat 32 w.bytes ∧ RegsKeptBut esp s t ∧
    t.mem.read (s.reg esp - BitVec.ofNat 32 w.bytes).toNat w = v ∧
    BytesKeptBut (s.reg esp - BitVec.ofNat 32 w.bytes).toNat w.bytes s t

/-- There is room in memory for a push (20_memory.md R61, R70). -/
def PushFits (w : Width) (s : State) : Prop :=
  (s.reg esp - BitVec.ofNat 32 w.bytes).toNat + w.bytes ≤ s.mem.capacity

/-- There is an item in memory for a pop (20_memory.md R61, R71). -/
def PopFits (w : Width) (s : State) : Prop := (s.reg esp).toNat + w.bytes ≤ s.mem.capacity

/-! ## Bytes in memory -/

/-- Memory holds the bytes `bs` from `base` on, below the end of memory and of the address space. -/
def HoldsBytes (m : Memory) (base : Word) (bs : List Byte) : Prop :=
  base.toNat + bs.length ≤ m.capacity ∧ base.toNat + bs.length ≤ 2 ^ 32 ∧ m.bytes base.toNat bs.length = bs

/-! ## Prefix runs -/

/-- `t` is reached from `s` by running `n` prefix bytes at IP, one after the other (49_dispatch.md R476). -/
inductive PrefixRun : Nat → State → State → Prop where
  | nil (s : State) : PrefixRun 0 s s
  | cons {n : Nat} {s s1 t : State} {i : Instr} (hd : decodeAt s = .pfxByte i) (he : exec i (s.advance 1) = .next s1)
      (hr : PrefixRun n s1 t) : PrefixRun (n + 1) s t

end Sys2Proof.Machine
end

