-- ==== Sys2Proof/Certificates/Slice0/Obligations.lean ====
section
/-! DEFINITION. The statements for the provers, one definition each. -/

open Sys2Proof Sys2Proof.Machine

/-! ## Encoding and decoding -/

/-- 30_encoding.md R100, R105 to R108, R120 to R134: the decoder reads back every encoding, whatever follows it, in every
mode in which the instruction has one. -/
def Obligations.EncodingsDecodeBack : Prop :=
  ∀ (m : DecodeMode) (i : Instr) (rest : List Byte), i.wf m = true →
    decodeBytes m (encode m i ++ rest) =
      if i.isPfxByte then .pfxByte i else .ok i (encode m i).length

/-- 30_encoding.md R135, R138, R140: whatever bytes decode to an instruction are its encoding, and it is 1 to 11 bytes long. -/
def Obligations.DecodedBytesAreTheEncoding : Prop :=
  ∀ (m : DecodeMode) (bs : List Byte) (i : Instr) (len : Nat), decodeBytes m bs = .ok i len →
    i.wf m = true ∧ i.isPfxByte = false ∧ len ≤ bs.length ∧ 1 ≤ len ∧ len ≤ 11 ∧ encode m i = bs.take len

/-- 30_encoding.md R108, R120 to R134: the words of spec/95_test_vectors.md and of the rules' own examples. -/
def Obligations.WorkedEncodingsDecode : Prop :=
  decodeBytes .default [0xB8, 0x01, 0x00, 0x00, 0x00] = .ok (.movRvImmv 0 1) 5 ∧
    decodeBytes .default [0x05, 0x02, 0x00, 0x00, 0x00] = .ok (.addEaxImmv 2) 5 ∧
    decodeBytes .default [0x6A, 0x05, 0x58] = .ok (.pushImm8s 5) 2 ∧
    decodeBytes .default [0x58] = .ok (.popRv 0) 1 ∧
    decodeBytes .default [0x83, 0x45, 0xF8, 0xFF] = .ok (.addRmvImm8s (.mem (.baseDisp8 5 0xF8)) 0xFF) 4 ∧
    decodeBytes .default [0x8B, 0x04, 0x8D, 0x90] = .ok (.movRvRmv 0 (.mem (.sib 2 1 5))) 3 ∧
    decodeBytes .default [0x0F, 0x84, 0x00, 0x01, 0x00, 0x00] = .ok (.jeRel32 0x100) 6 ∧
    decodeBytes .opsize16 [0xC7, 0x03, 0x34, 0x12] = .ok (.movRmvImmv 0 (.mem (.base 3)) 0x1234) 4 ∧
    decodeBytes .default [0xF7, 0xF3] = .ok (.divRmv (.reg 3)) 2 ∧
    decodeBytes .default [0xD1, 0xF8] = .ok (.sarRmvOne (.reg 0)) 2

/-- 49_dispatch.md R473, 60_exceptions.md R502: an unmapped first byte, after any run of prefix bytes, ends the step with
`UnimplementedOpcode` and that byte alone; there are 112 of them. -/
def Obligations.UnmappedFirstByteFaults : Prop :=
  unmappedFirstBytes.Nodup ∧ unmappedFirstBytes.length = 112 ∧
    ∀ (n : Nat) (s t : State), PrefixRun n s.begin t → n ≤ s.mem.capacity → t.ip.toNat < t.mem.capacity →
      t.mem.byte t.ip.toNat ∈ unmappedFirstBytes →
      step s = .fault (.unimplementedOpcode s.ip [t.mem.byte t.ip.toNat])

/-- 49_dispatch.md R471, R473: after 0F every second byte outside 80 to 8F ends the step with `UnimplementedOpcode` and both
bytes. -/
def Obligations.UnmappedSecondByteFaults : Prop :=
  ∀ (n : Nat) (s t : State), PrefixRun n s.begin t → n ≤ s.mem.capacity → t.ip.toNat < t.mem.capacity →
    (t.ip + 1).toNat < t.mem.capacity → t.mem.byte t.ip.toNat = 0x0F →
    ((t.mem.byte (t.ip + 1).toNat).toNat < 0x80 ∨ 0x8F < (t.mem.byte (t.ip + 1).toNat).toNat) →
    step s = .fault (.unimplementedOpcode s.ip [0x0F, t.mem.byte (t.ip + 1).toNat])

/-- 49_dispatch.md R472, R473, 44_shift_rotate.md R321: an unmapped reg value under a group opcode ends the step with
`UnimplementedOpcode`, the opcode and the ModRM byte, whatever operand the ModRM names. -/
def Obligations.UnmappedGroupRegFaults : Prop :=
  ∀ (n : Nat) (s t : State) (g : Byte) (reg : RegIdx) (d : Rm), PrefixRun n s.begin t → n ≤ s.mem.capacity →
    (g, reg) ∈ unmappedGroupRegs → d.wf t.decodeMode = true → HoldsBytes t.mem t.ip (g :: encodeRm reg d) →
    step s = .fault (.unimplementedOpcode s.ip (g :: (encodeRm reg d).take 1))

/-! ## The step -/

/-- 49_dispatch.md R485, R480: where the bytes at IP decode to an instruction, the step is that instruction run at the state
whose IP is past it, and the common tail after it; the tail clears the transient prefixes, sets the default sizes, keeps the
repeat bits and leaves the rest. -/
def Obligations.StepRunsTheDecodedInstruction : Prop :=
  (∀ (s : State) (i : Instr) (len : Nat), decodeAt s = .ok i len →
    step s =
      match exec i (s.begin.advance len) with
      | .next t => .next (commonTail t)
      | .fault r => .fault r
      | .refused r => .refused r) ∧
    (∀ (s : State) (len : Nat), (s.begin.advance len).ip = s.ip + BitVec.ofNat 32 len ∧
      (s.begin.advance len).ipStart = s.ip ∧ (s.begin.advance len).notice = none ∧
      (s.begin.advance len).regs = s.regs ∧ (s.begin.advance len).flags = s.flags ∧
      (s.begin.advance len).mem = s.mem ∧ (s.begin.advance len).pfx = s.pfx) ∧
    ∀ t : State, (commonTail t).pfx.BetweenSteps ∧ (commonTail t).pfx.repz = t.pfx.repz ∧
      (commonTail t).pfx.repnz = t.pfx.repnz ∧ (commonTail t).regs = t.regs ∧ (commonTail t).flags = t.flags ∧
      (commonTail t).ip = t.ip ∧ (commonTail t).mem = t.mem

/-- 49_dispatch.md R485: an instruction whose encoding stands in memory at IP is fetched and run, at any address. -/
def Obligations.EncodedInstructionInMemoryRuns : Prop :=
  ∀ (s : State) (i : Instr), i.wf s.decodeMode = true → i.isPfxByte = false →
    HoldsBytes s.mem s.ip (encode s.decodeMode i) →
    step s = chain (exec i (s.begin.advance (encode s.decodeMode i).length)) fun t => .next (commonTail t)

/-- 49_dispatch.md R476: any number of prefix bytes and the instruction after them are one step. -/
def Obligations.PrefixRunAndInstructionAreOneStep : Prop :=
  ∀ (n : Nat) (s t : State) (i : Instr) (len : Nat), PrefixRun n s.begin t → n ≤ s.mem.capacity →
    decodeAt t = .ok i len → step s = chain (exec i (t.advance len)) fun u => .next (commonTail u)

/-- A prefix byte completes with the given bits of PFX set and cleared and nothing else changed. -/
def PrefixDone (set clear : BitVec 13) (s : State) (out : Out State) : Prop :=
  ∃ t, out = .next t ∧ t.pfx.toBits = (s.pfx.toBits ||| set) &&& ~~~clear ∧ t = s.setPfx t.pfx

/-- 30_encoding.md R134, 10_state.md R38, R40: each prefix byte sets its bit of PFX; 66 also clears OS32 and 67 AS32. -/
def Obligations.PrefixBytesSetTheirBits : Prop :=
  ∀ s : State, PrefixDone 0x0001 0 s (exec .segEs s) ∧ PrefixDone 0x0002 0 s (exec .segCs s) ∧
    PrefixDone 0x0004 0 s (exec .segSs s) ∧ PrefixDone 0x0008 0 s (exec .segDs s) ∧
    PrefixDone 0x0010 0 s (exec .segFs s) ∧ PrefixDone 0x0020 0 s (exec .segGs s) ∧
    PrefixDone 0x0040 0x0800 s (exec .opSize s) ∧ PrefixDone 0x0080 0x1000 s (exec .addrSize s) ∧
    PrefixDone 0x0100 0 s (exec .lock s) ∧ PrefixDone 0x0200 0 s (exec .repnz s) ∧ PrefixDone 0x0400 0 s (exec .repz s)

/-! ## The whole machine -/

/-- 10_state.md R39, 00_scope.md R9: every step that answers a next state keeps the invariant between steps. -/
def Obligations.StepKeepsTheInvariant : Prop :=
  ∀ s t : State, s.Inv → step s = .next t → t.Inv

/-- 10_state.md R49, R39: the state after reset, and every launch state with a capacity the spec allows, has the invariant;
memory reads as zero everywhere. -/
def Obligations.ResetHasTheInvariant : Prop :=
  State.reset.Inv ∧ (∀ a, State.reset.mem.byte a = 0) ∧
    ∀ (capacity : Nat) (regs : Vector Word 8) (flags : Flags) (ip : Word), 1 ≤ capacity → capacity ≤ 2 ^ 32 →
      (State.launch capacity regs flags ip).Inv ∧ (∀ a, (State.launch capacity regs flags ip).mem.byte a = 0) ∧
        (State.launch capacity regs flags ip).regs = regs ∧ (State.launch capacity regs flags ip).flags = flags ∧
        (State.launch capacity regs flags ip).ip = ip

/-- 70_reset_and_hazards.md R541: what the host may write between steps keeps the invariant and never changes PFX. That a write outside memory
changes nothing is the model's choice (log 6). -/
def Obligations.HostWritesKeepTheInvariant : Prop :=
  ∀ (s : State) (ws : List HostWrite), (s.Inv → (s.hostWrites ws).Inv) ∧ (s.hostWrites ws).pfx = s.pfx

/-- 10_state.md R35, R36: no instruction but INT, whose dispatcher may, writes TF, IF or DF. -/
def Obligations.OnlyIntWritesStoredFlags : Prop :=
  ∀ (i : Instr) (s t : State), exec i s = .next t → (∀ v, i ≠ .intImm8 v) → StoredFlagsKept s.flags t.flags

/-- 60_exceptions.md R526, 10_state.md R39: an instruction changes PFX only if it is a prefix byte or STOS, and STOS clears
the two repeat bits and nothing else of it. -/
def Obligations.OnlyPrefixesAndStosWritePfx : Prop :=
  ∀ (i : Instr) (s t : State), exec i s = .next t → i.isPfxByte = false →
    t.pfx = if i = .stos then { s.pfx with repz := false, repnz := false } else s.pfx

/-- 60_exceptions.md R526, 20_memory.md R85: IN, OUT and INT make one call to the host, no other instruction makes any. The
list of calls is the model's own field (log 7). -/
def Obligations.OnlyInOutIntCallTheHost : Prop :=
  ∀ (i : Instr) (s t : State), exec i s = .next t →
    if callsHost i then ∃ c, t.hostCalls = s.hostCalls ++ [c] else t.hostCalls = s.hostCalls

/-- 10_state.md R29: an instruction that is no control transfer leaves IP past its own bytes, where the fetch put it. -/
def Obligations.NonTransfersKeepIp : Prop :=
  ∀ (i : Instr) (s t : State), exec i s = .next t → isTransfer i = false → t.ip = s.ip

/-- Every fault of a step from `s` names the address of the instruction, and an out-of-bounds record names an access of 1, 2
or 4 bytes that does run past the end of memory (60_exceptions.md R500, R501, R512). -/
def TrueRecords (s : State) : Prop :=
  ∀ r : Fault, step s = .fault r → r.ipStart = s.ip ∧
    ∀ (p addr : Word) (n : Nat) (dir : Access), r = .outOfBoundsMemoryAccess p addr n dir →
      s.mem.capacity < addr.toNat + n ∧ (n = 1 ∨ n = 2 ∨ n = 4)

/-- The bytes from IP on begin as the encoding `bs` of fields of the widths `before`, `w` and more; all the bytes before
the field of width `w` are in memory, and that field runs past the end of memory. -/
def CutOff (s : State) (bs : List Byte) (before : List Nat) (w : Nat) : Prop :=
  HoldsBytes s.mem s.ip (bs.take before.sum) ∧ s.ip.toNat + before.sum < 2 ^ 32 ∧
    s.mem.capacity < s.ip.toNat + before.sum + w

/-- After the prefix bytes that lead from `s.begin` to `t`, a fetch that is out of bounds ends the step with the address and
the width of the field fetched: wherever the decoder finds one; at an IP beyond memory; after a last byte that asks for a
second opcode byte or a ModRM byte; in an encoding that the end of memory cuts off, an unmapped reg value of a group among
them (10_state.md R30, 30_encoding.md R102, 60_exceptions.md R501, R507, R512). -/
def FetchFaults (s t : State) : Prop :=
  let oob (off n : Nat) : Out State := .fault (.outOfBoundsMemoryAccess s.ip (t.ip + BitVec.ofNat 32 off) n .read)
  (∀ off n, decodeAt t = .truncated off n → step s = oob off n) ∧
    (t.mem.capacity ≤ t.ip.toNat → step s = oob 0 1) ∧
    (t.ip.toNat < t.mem.capacity → t.mem.capacity ≤ (t.ip + 1).toNat →
      t.mem.byte t.ip.toNat ∈ 0x0F#8 :: modrmOpcodes → step s = oob 1 1) ∧
    (∀ i before w after, i.wf t.decodeMode = true → i.isPfxByte = false →
      i.fieldWidths t.decodeMode = before ++ w :: after → CutOff t (encode t.decodeMode i) before w →
      step s = oob before.sum w) ∧
    ∀ g reg d before w after, (g, reg) ∈ unmappedGroupRegs → d.wf t.decodeMode = true →
      1 :: d.fieldWidths = before ++ w :: after → CutOff t (g :: encodeRm reg d) before w → step s = oob before.sum w

/-- 60_exceptions.md R500, R501, R507, R512, 10_state.md R30, 30_encoding.md R102: the record of every fault is true, and a
fetch past the end of memory faults with the address and the width of the field that is fetched. -/
def Obligations.FaultRecordsAreTrue : Prop :=
  ∀ s : State, TrueRecords s ∧
    ∀ (n : Nat) (t : State), PrefixRun n s.begin t → n ≤ s.mem.capacity → FetchFaults s t

/-- 60_exceptions.md R500: the divide faults come from DIV and IDIV only, and no meaning raises `UnimplementedOpcode`. -/
def Obligations.DivideFaultsComeFromDivision : Prop :=
  ∀ (i : Instr) (s : State) (r : Fault), exec i s = .fault r →
    (∃ p addr n dir, r = .outOfBoundsMemoryAccess p addr n dir) ∨
      ((r = .divideByZero s.ipStart ∨ r = .divisionOverflow s.ipStart) ∧ ∃ d, i = .divRmv d ∨ i = .idivRmv d)

/-- 30_encoding.md R139: a meaning is refused only under prefix 67, and then it has a memory operand or is STOS, or only under
prefix 66, and then it is a control transfer or LEAVE; each refusal has its own name. -/
def Obligations.RefusalsNeedASizePrefix : Prop :=
  ∀ (i : Instr) (s : State) (r : Refusal), exec i s = .refused r →
    (s.pfx.as32 = false ∧
      ((r = .addr16 ∧ ∃ o x b v, i ∈ allAddressed o x b v) ∨ (r = .addr16Stos ∧ i = .stos))) ∨
      (s.pfx.opovr = true ∧ ((r = .opsize16Transfer ∧ isTransfer i = true) ∨ (r = .opsize16Leave ∧ i = .leave)))

/-- 60_exceptions.md R506, 49_dispatch.md R486, 47_control_transfer.md R440: a step that completes reports no notice, or one
that carries the address of the instruction and a vector for which the dispatcher, called last, answered that it did not
handle it. The fields are the model's own (log 7, log 8). -/
def Obligations.NoticesComeFromUnhandledInt : Prop :=
  ∀ s t : State, step s = .next t →
    t.notice = none ∨
      ∃ v, t.notice = some { vector := v, ipStart := s.ip } ∧ t.hostCalls = s.hostCalls ++ [.intDispatch v false]

/-- 49_dispatch.md R487: the predicate is tested first, and a run that it stops ends where it holds; where it does not hold
the run steps, goes on from the next state with the step's notice after the others, and a fault or a refusal of the step ends
it at the state before that step; a run that halts does so at a state whose step faults with the fault reported and at which
the predicate does not hold. The bound on steps is the model's (log 14): a run ends at it only where the predicate does not
hold. -/
def Obligations.RunUntilStopsWhereItSays : Prop :=
  ∀ (pred : State → Bool) (budget : Nat) (s : State) (ns : List Notice),
    (∀ t r ns', runUntil pred budget s ns = .halted t r ns' → step t = .fault r ∧ pred t = false) ∧
      (∀ t ns', runUntil pred budget s ns = .stoppedByPredicate t ns' → pred t = true) ∧
      (∀ t r ns', runUntil pred budget s ns = .stoppedByRefusal t r ns' → step t = .refused r ∧ pred t = false) ∧
      (∀ t ns', runUntil pred budget s ns = .budgetSpent t ns' → pred t = false) ∧
      (pred s = true → runUntil pred budget s ns = .stoppedByPredicate s ns) ∧
      (pred s = false →
        (∀ s1, step s = .next s1 →
          runUntil pred (budget + 1) s ns = runUntil pred budget s1 (ns ++ s1.notice.toList)) ∧
        (∀ r, step s = .fault r → runUntil pred (budget + 1) s ns = .halted s r ns) ∧
        (∀ r, step s = .refused r → runUntil pred (budget + 1) s ns = .stoppedByRefusal s r ns) ∧
        runUntil pred 0 s ns = .budgetSpent s ns)

/-! ## Registers and memory -/

/-- 10_state.md R23, R24, R26: a view is a field of its owner; a write of a view writes that field and keeps every other bit
of the owner and every other register; the two byte views of registers 0 to 3 make up the 16-bit view. -/
def Obligations.RegisterViewsAreFields : Prop :=
  (∀ (w : Width) (i : RegIdx) (s : State) (k : Nat), k < w.bits →
    (readReg w i s).getLsbD k = (s.reg (regOwner w i)).getLsbD (viewLow w i + k)) ∧
    (∀ (w : Width) (i : RegIdx) (v : BitVec w.bits) (s : State), RegWritten w i v s (writeReg w i v s)) ∧
    (∀ (i : RegIdx) (hi lo : Byte) (s : State), i.toNat < 4 →
      (readReg .w16 i (writeReg .w8 i lo (writeReg .w8 (i + 4) hi s))).toNat = 256 * hi.toNat + lo.toNat ∧
        ((writeReg .w8 i lo (writeReg .w8 (i + 4) hi s)).reg i).toNat / 2 ^ 16 = (s.reg i).toNat / 2 ^ 16)

/-- 20_memory.md R61, R62: an access inside memory reads the sum of its bytes, the lowest address least significant; any
other access faults. -/
def Obligations.MemoryReadsLittleEndian : Prop :=
  ∀ (w : Width) (a : Word) (s : State),
    (a.toNat + w.bytes ≤ s.mem.capacity →
      ∃ v, load w a s = .next v ∧
        v.toNat = ((List.range w.bytes).map fun k => (s.mem.byte (a.toNat + k)).toNat * 2 ^ (8 * k)).sum) ∧
      (s.mem.capacity < a.toNat + w.bytes →
        load w a s = .fault (.outOfBoundsMemoryAccess s.ipStart a w.bytes .read))

/-- 20_memory.md R61, R63: an access inside memory puts bits 8k to 8k + 7 of the value at address a + k and changes no other
byte and nothing else; any other access faults. -/
def Obligations.MemoryWritesEachByte : Prop :=
  ∀ (w : Width) (a : Word) (v : BitVec w.bits) (s : State),
    (a.toNat + w.bytes ≤ s.mem.capacity →
      ∃ t, store w a v s = .next t ∧ (∀ k, k < w.bytes → t.mem.byte (a.toNat + k) = v.extractLsb' (8 * k) 8) ∧
        BytesKeptBut a.toNat w.bytes s t ∧ RegsKept s t ∧ t.flags = s.flags ∧ SameElse s t) ∧
      (s.mem.capacity < a.toNat + w.bytes →
        store w a v s = .fault (.outOfBoundsMemoryAccess s.ipStart a w.bytes .write))

/-- 41_addressing.md R186 to R189: every memory form's address, as a sum modulo 2^32. -/
def Obligations.EffectiveAddressTable : Prop :=
  ∀ (s : State) (r bs ix : RegIdx) (sc : BitVec 2) (d8 : Byte) (d32 : Word),
    let index : Int := if ix = 4#3 then 0 else (s.reg ix).toNat * 2 ^ sc.toNat
    ((ea (.base r) s).toNat : Int) = (s.reg r).toNat ∧
      ((ea (.disp32 d32) s).toNat : Int) = d32.toNat ∧
      ((ea (.baseDisp8 r d8) s).toNat : Int) = ((s.reg r).toNat + d8.toInt) % 2 ^ 32 ∧
      ((ea (.baseDisp32 r d32) s).toNat : Int) = ((s.reg r).toNat + d32.toInt) % 2 ^ 32 ∧
      ((ea (.sib sc ix bs) s).toNat : Int) = ((if bs = 5#3 then 0 else (s.reg bs).toNat : Int) + index) % 2 ^ 32 ∧
      ((ea (.sibDisp8 sc ix bs d8) s).toNat : Int) = ((s.reg bs).toNat + index + d8.toInt) % 2 ^ 32 ∧
      ((ea (.sibDisp32 sc ix bs d32) s).toNat : Int) = ((s.reg bs).toNat + index + d32.toInt) % 2 ^ 32

/-! ## Flags -/

/-- 40_flags.md R159: CF, OF and AF after an addition and after a subtraction, at every width, by the true sum and
difference. -/
def Obligations.AddSubFlagsInNumbers : Prop :=
  ∀ (w : Width) (a b : BitVec w.bits) (f : Flags),
    AddFlags a b (a + b) f (flagsAdd a b (a + b) f) ∧ SubFlags a b (a - b) f (flagsSub a b (a - b) f)

/-- 40_flags.md R154, R155, R158: the flags of the logical operations. -/
def Obligations.LogicFlagsClearAndTest : Prop :=
  ∀ (w : Width) (r : BitVec w.bits) (f : Flags), LogicFlags r f (flagsLogic r f)

/-- 40_flags.md R156, R157: the flags of INC, DEC and NEG, by the operand. -/
def Obligations.IncDecNegFlagsInNumbers : Prop :=
  ∀ (w : Width) (a : BitVec w.bits) (f : Flags),
    IncFlags a (a + 1) f (flagsInc a (a + 1) f) ∧ DecFlags a (a - 1) f (flagsDec a (a - 1) f) ∧
      NegFlags a (0 - a) f (flagsNeg a (0 - a) f)

/-- 40_flags.md R165: the sixteen conditions, and that an odd one is the negation of the one before. -/
def Obligations.ConditionTable : Prop :=
  ∀ f : Flags,
    (condHolds f .o ↔ f.ofl = true) ∧ (condHolds f .no ↔ f.ofl = false) ∧
      (condHolds f .b ↔ f.cf = true) ∧ (condHolds f .ae ↔ f.cf = false) ∧
      (condHolds f .e ↔ f.zf = true) ∧ (condHolds f .ne ↔ f.zf = false) ∧
      (condHolds f .be ↔ f.cf = true ∨ f.zf = true) ∧ (condHolds f .a ↔ f.cf = false ∧ f.zf = false) ∧
      (condHolds f .s ↔ f.sf = true) ∧ (condHolds f .ns ↔ f.sf = false) ∧
      (condHolds f .p ↔ f.pf = true) ∧ (condHolds f .np ↔ f.pf = false) ∧
      (condHolds f .l ↔ f.sf ≠ f.ofl) ∧ (condHolds f .ge ↔ f.sf = f.ofl) ∧
      (condHolds f .le ↔ f.zf = true ∨ f.sf ≠ f.ofl) ∧ (condHolds f .g ↔ f.zf = false ∧ f.sf = f.ofl)

/-- 47_control_transfer.md R396 to R401 and R406 to R409: what the conditions say after a compare of `a` with `b`. -/
def Obligations.ConditionsAfterCompare : Prop :=
  ∀ (w : Width) (a b : BitVec w.bits) (f : Flags),
    let g := flagsSub a b (a - b) f
    (condHolds g .b ↔ a.toNat < b.toNat) ∧ (condHolds g .ae ↔ b.toNat ≤ a.toNat) ∧
      (condHolds g .e ↔ a = b) ∧ (condHolds g .ne ↔ a ≠ b) ∧
      (condHolds g .be ↔ a.toNat ≤ b.toNat) ∧ (condHolds g .a ↔ b.toNat < a.toNat) ∧
      (condHolds g .l ↔ a.toInt < b.toInt) ∧ (condHolds g .ge ↔ b.toInt ≤ a.toInt) ∧
      (condHolds g .le ↔ a.toInt ≤ b.toInt) ∧ (condHolds g .g ↔ b.toInt < a.toInt)

/-! ## Arithmetic and logic -/

/-- 42_arith_logic.md R210, R211, forms `r/m, r`: the seven operations complete with their result in the first operand, at 8
bits and at the operand size. -/
def Obligations.AluRmRegForms : Prop :=
  ∀ (d : Rm) (r : RegIdx) (s : State),
    (Accessible .w8 d s →
      let done (op : AluOp) (i : Instr) := AluDone op .w8 d (operand .w8 d s) (readReg .w8 r s) s (exec i s)
      done .add (.addRm8R8 d r) ∧ done .or (.orRm8R8 d r) ∧ done .and (.andRm8R8 d r) ∧ done .sub (.subRm8R8 d r) ∧
        done .xor (.xorRm8R8 d r) ∧ done .cmp (.cmpRm8R8 d r) ∧ done .test (.testRm8R8 d r)) ∧
      (Accessible s.osz d s →
        let done (op : AluOp) (i : Instr) := AluDone op s.osz d (operand s.osz d s) (readReg s.osz r s) s (exec i s)
        done .add (.addRmvRv d r) ∧ done .or (.orRmvRv d r) ∧ done .and (.andRmvRv d r) ∧ done .sub (.subRmvRv d r) ∧
          done .xor (.xorRmvRv d r) ∧ done .cmp (.cmpRmvRv d r) ∧ done .test (.testRmvRv d r))

/-- 42_arith_logic.md R210, R211, forms `r, r/m`: six operations complete with their result in the register. -/
def Obligations.AluRegRmForms : Prop :=
  ∀ (r : RegIdx) (d : Rm) (s : State),
    (Accessible .w8 d s →
      let done (op : AluOp) (i : Instr) := AluDone op .w8 (.reg r) (readReg .w8 r s) (operand .w8 d s) s (exec i s)
      done .add (.addR8Rm8 r d) ∧ done .or (.orR8Rm8 r d) ∧ done .and (.andR8Rm8 r d) ∧ done .sub (.subR8Rm8 r d) ∧
        done .xor (.xorR8Rm8 r d) ∧ done .cmp (.cmpR8Rm8 r d)) ∧
      (Accessible s.osz d s →
        let done (op : AluOp) (i : Instr) := AluDone op s.osz (.reg r) (readReg s.osz r s) (operand s.osz d s) s (exec i s)
        done .add (.addRvRmv r d) ∧ done .or (.orRvRmv r d) ∧ done .and (.andRvRmv r d) ∧ done .sub (.subRvRmv r d) ∧
          done .xor (.xorRvRmv r d) ∧ done .cmp (.cmpRvRmv r d))

/-- 42_arith_logic.md R210, R211, forms `AL, imm8` and `eAX, immv`: the seven operations complete on the accumulator. -/
def Obligations.AluAccImmForms : Prop :=
  ∀ (b : Byte) (v : Word) (s : State),
    (let done (op : AluOp) (i : Instr) := AluDone op .w8 (.reg 0) (readReg .w8 0 s) b s (exec i s);
      done .add (.addAlImm8 b) ∧ done .or (.orAlImm8 b) ∧ done .and (.andAlImm8 b) ∧ done .sub (.subAlImm8 b) ∧
        done .xor (.xorAlImm8 b) ∧ done .cmp (.cmpAlImm8 b) ∧ done .test (.testAlImm8 b)) ∧
      (let done (op : AluOp) (i : Instr) :=
          AluDone op s.osz (.reg 0) (readReg s.osz 0 s) (v.setWidth s.osz.bits) s (exec i s);
        done .add (.addEaxImmv v) ∧ done .or (.orEaxImmv v) ∧ done .and (.andEaxImmv v) ∧ done .sub (.subEaxImmv v) ∧
          done .xor (.xorEaxImmv v) ∧ done .cmp (.cmpEaxImmv v) ∧ done .test (.testEaxImmv v))

/-- 42_arith_logic.md R210, R211, forms `r/mv, immv` and `r/mv, imm8s`: the operations complete on the first operand, the
8-bit immediate sign-extended. -/
def Obligations.AluRmImmForms : Prop :=
  ∀ (d : Rm) (b : Byte) (v : Word) (s : State), Accessible s.osz d s →
    (let done (op : AluOp) (i : Instr) :=
        AluDone op s.osz d (operand s.osz d s) (v.setWidth s.osz.bits) s (exec i s);
      done .add (.addRmvImmv d v) ∧ done .or (.orRmvImmv d v) ∧ done .and (.andRmvImmv d v) ∧
        done .sub (.subRmvImmv d v) ∧ done .xor (.xorRmvImmv d v) ∧ done .cmp (.cmpRmvImmv d v) ∧
        done .test (.testRmvImmv d v)) ∧
      (let done (op : AluOp) (i : Instr) :=
          AluDone op s.osz d (operand s.osz d s) (b.signExtend s.osz.bits) s (exec i s);
        done .add (.addRmvImm8s d b) ∧ done .or (.orRmvImm8s d b) ∧ done .and (.andRmvImm8s d b) ∧
          done .sub (.subRmvImm8s d b) ∧ done .xor (.xorRmvImm8s d b) ∧ done .cmp (.cmpRmvImm8s d b))

/-- An instruction completes with a value in `d` for which `ok` holds of the value and the new flags, and nothing else
changed. -/
def UnaryDone (w : Width) (d : Rm) (s : State) (out : Out State) (ok : BitVec w.bits → Flags → Prop) : Prop :=
  ∃ (r : BitVec w.bits) (t : State), out = .next t ∧ ok r t.flags ∧ Written w d r s t ∧ SameElse s t

/-- 42_arith_logic.md R268 to R273: NOT complements and keeps every flag, NEG subtracts from zero, INC and DEC count by one
and keep CF. -/
def Obligations.NotNegIncDecForms : Prop :=
  ∀ (d : Rm) (p : RegIdx) (s : State),
    (Accessible s.osz d s →
      let a := operand s.osz d s
      UnaryDone s.osz d s (exec (.notRmv d) s) (fun r g => r.toNat = 2 ^ s.osz.bits - 1 - a.toNat ∧ g = s.flags) ∧
        UnaryDone s.osz d s (exec (.negRmv d) s)
          (fun r g => (r.toNat + a.toNat) % 2 ^ s.osz.bits = 0 ∧ NegFlags a r s.flags g) ∧
        UnaryDone s.osz d s (exec (.incRmv d) s)
          (fun r g => r.toNat = (a.toNat + 1) % 2 ^ s.osz.bits ∧ IncFlags a r s.flags g) ∧
        UnaryDone s.osz d s (exec (.decRmv d) s)
          (fun r g => (r.toNat + 1) % 2 ^ s.osz.bits = a.toNat ∧ DecFlags a r s.flags g)) ∧
      (let a := readReg s.osz p s;
        UnaryDone s.osz (.reg p) s (exec (.incRv p) s)
          (fun r g => r.toNat = (a.toNat + 1) % 2 ^ s.osz.bits ∧ IncFlags a r s.flags g) ∧
          UnaryDone s.osz (.reg p) s (exec (.decRv p) s)
            (fun r g => (r.toNat + 1) % 2 ^ s.osz.bits = a.toNat ∧ DecFlags a r s.flags g))

/-- 40_flags.md R166 (b), (c): ADD and then SUB of the same other register, and INC and then DEC, restore a register. -/
def Obligations.AddSubAndIncDecRestore : Prop :=
  ∀ (p q : RegIdx) (s : State),
    (p ≠ q → ∃ t u, exec (.addRmvRv (.reg p) q) s = .next t ∧ exec (.subRmvRv (.reg p) q) t = .next u ∧
      u.regs = s.regs ∧ SzpOf (readReg s.osz p s) u.flags) ∧
      ∃ t u, exec (.incRv p) s = .next t ∧ exec (.decRv p) t = .next u ∧ u.regs = s.regs ∧ u.flags.cf = s.flags.cf

/-! ## Multiplication and division -/

/-- The accumulator and EDX, at the operand size, hold `lo` and `hi`; their bits above the operand size, every other
register, every byte of memory and all else but the flags are as before. -/
def PairWritten (w : Width) (lo hi : BitVec w.bits) (s t : State) : Prop :=
  readReg w 0 t = lo ∧ readReg w 2 t = hi ∧
    (∀ k, w.bits ≤ k → (t.reg 0).getLsbD k = (s.reg 0).getLsbD k ∧ (t.reg 2).getLsbD k = (s.reg 2).getLsbD k) ∧
    (∀ i, i ≠ 0#3 → i ≠ 2#3 → t.reg i = s.reg i) ∧ BytesKept s t ∧ SameOutside s t ∧ t.ip = s.ip ∧
    StoredFlagsKept s.flags t.flags

/-- 43_muldiv.md R291, R293, R298: the product of MUL and of IMUL is exact, and CF = OF says whether it needs the high half. -/
def Obligations.MultiplyIsExact : Prop :=
  ∀ (d : Rm) (s : State), Accessible s.osz d s →
    let a := readReg s.osz 0 s
    let b := operand s.osz d s
    (∃ lo hi t, exec (.mulRmv d) s = .next t ∧ PairWritten s.osz lo hi s t ∧
      hi.toNat * 2 ^ s.osz.bits + lo.toNat = a.toNat * b.toNat ∧
      (t.flags.cf = true ↔ 2 ^ s.osz.bits ≤ a.toNat * b.toNat) ∧ t.flags.ofl = t.flags.cf) ∧
      ∃ lo hi t, exec (.imulRmv d) s = .next t ∧ PairWritten s.osz lo hi s t ∧
        hi.toInt * 2 ^ s.osz.bits + lo.toNat = a.toInt * b.toInt ∧
        (t.flags.cf = true ↔ ¬ FitsSigned s.osz.bits (a.toInt * b.toInt)) ∧ t.flags.ofl = t.flags.cf

/-- 43_muldiv.md R294, R298: DIV completes exactly when the divisor is greater than the high half; the quotient and the
remainder are those of the true division. -/
def Obligations.UnsignedDivisionIsExact : Prop :=
  ∀ (d : Rm) (s : State), Accessible s.osz d s → (readReg s.osz 2 s).toNat < (operand s.osz d s).toNat →
    ∃ q r t, exec (.divRmv d) s = .next t ∧ PairWritten s.osz q r s t ∧
      (readReg s.osz 2 s).toNat * 2 ^ s.osz.bits + (readReg s.osz 0 s).toNat =
        q.toNat * (operand s.osz d s).toNat + r.toNat ∧
      r.toNat < (operand s.osz d s).toNat

/-- 43_muldiv.md R295, R298: IDIV completes where the quotient toward zero fits; the remainder is smaller than the divisor
and has the sign of the dividend. -/
def Obligations.SignedDivisionIsExact : Prop :=
  ∀ (d : Rm) (s : State), Accessible s.osz d s →
    let D : Int := (readReg s.osz 2 s).toInt * 2 ^ s.osz.bits + (readReg s.osz 0 s).toNat
    let v : Int := (operand s.osz d s).toInt
    v ≠ 0 → FitsSigned s.osz.bits (D.tdiv v) →
      ∃ q r t, exec (.idivRmv d) s = .next t ∧ PairWritten s.osz q r s t ∧ D = q.toInt * v + r.toInt ∧
        r.toInt.natAbs < v.natAbs ∧ (r.toInt = 0 ∨ (r.toInt < 0 ↔ D < 0))

/-- 43_muldiv.md R294, R295, R297, 60_exceptions.md R503, R504: where DIV and IDIV fault, and in which order: the operand's
bounds, then a zero divisor, then a quotient that does not fit. -/
def Obligations.DivisionFaults : Prop :=
  ∀ (d : Rm) (s : State),
    (∀ o, d = .mem o → s.pfx.as32 = true → s.mem.capacity < (ea o s).toNat + s.osz.bytes →
      exec (.divRmv d) s = .fault (.outOfBoundsMemoryAccess s.ipStart (ea o s) s.osz.bytes .read) ∧
        exec (.idivRmv d) s = .fault (.outOfBoundsMemoryAccess s.ipStart (ea o s) s.osz.bytes .read)) ∧
      (Accessible s.osz d s → operand s.osz d s = 0 →
        exec (.divRmv d) s = .fault (.divideByZero s.ipStart) ∧ exec (.idivRmv d) s = .fault (.divideByZero s.ipStart)) ∧
      (Accessible s.osz d s → operand s.osz d s ≠ 0 →
        ((operand s.osz d s).toNat ≤ (readReg s.osz 2 s).toNat →
          exec (.divRmv d) s = .fault (.divisionOverflow s.ipStart)) ∧
        (¬ FitsSigned s.osz.bits
            (((readReg s.osz 2 s).toInt * 2 ^ s.osz.bits + (readReg s.osz 0 s).toNat).tdiv (operand s.osz d s).toInt) →
          exec (.idivRmv d) s = .fault (.divisionOverflow s.ipStart)))

/-! ## Memory operands that cannot be used -/

/-- 20_memory.md R61, 60_exceptions.md R501, 41_addressing.md R184: a memory operand that runs past the end of memory faults
at its first access, a shift by a masked count of 0 as any other; under prefix 67 a memory operand is refused. -/
def Obligations.MemoryOperandsOutsideMemory : Prop :=
  ∀ (o : MemOperand) (r : RegIdx) (b : Byte) (v : Word) (s : State),
    let out (n : Nat) (dir : Access) : Out State := .fault (.outOfBoundsMemoryAccess s.ipStart (ea o s) n dir)
    (s.pfx.as32 = true → s.mem.capacity < (ea o s).toNat + 1 →
      (∀ i ∈ byteReaders (.mem o) r, exec i s = out 1 .read) ∧ ∀ i ∈ byteWriters (.mem o) r b, exec i s = out 1 .write) ∧
      (s.pfx.as32 = true → s.mem.capacity < (ea o s).toNat + s.osz.bytes →
        (∀ i ∈ wideReaders (.mem o) r b v, exec i s = out s.osz.bytes .read) ∧
          ∀ i ∈ wideWriters (.mem o) r v, exec i s = out s.osz.bytes .write) ∧
      (s.pfx.as32 = false →
        ∀ i ∈ allAddressed o r b v, exec i s = .refused .addr16)

/-! ## Shifts and rotates -/

/-- The masked counts of the three count sources (44_shift_rotate.md R310, R312): an immediate, CL. -/
def countOf (b : Byte) : Nat := b.toNat % 32

/-- 44_shift_rotate.md R311: a masked count of 0 leaves the whole state as it is. -/
def Obligations.MaskedCountZeroChangesNothing : Prop :=
  ∀ (d : Rm) (b : Byte) (s : State), Accessible s.osz d s →
    (countOf b = 0 →
      exec (.rolRmvImm8 d b) s = .next s ∧ exec (.rorRmvImm8 d b) s = .next s ∧ exec (.rclRmvImm8 d b) s = .next s ∧
        exec (.rcrRmvImm8 d b) s = .next s ∧ exec (.shlRmvImm8 d b) s = .next s ∧ exec (.shrRmvImm8 d b) s = .next s ∧
        exec (.sarRmvImm8 d b) s = .next s) ∧
      (countOf (readReg .w8 1 s) = 0 →
        exec (.rolRmvCl d) s = .next s ∧ exec (.rorRmvCl d) s = .next s ∧ exec (.rclRmvCl d) s = .next s ∧
          exec (.rcrRmvCl d) s = .next s ∧ exec (.shlRmvCl d) s = .next s ∧ exec (.shrRmvCl d) s = .next s ∧
          exec (.sarRmvCl d) s = .next s)

/-- An instruction completes with a value in `d` for which `ok` holds of the value and the new flags; TF, IF, DF and all
else are as before. -/
def ShiftDone (d : Rm) (s : State) (out : Out State) (ok : BitVec s.osz.bits → Flags → Prop) : Prop :=
  ∃ (r : BitVec s.osz.bits) (t : State), out = .next t ∧ ok r t.flags ∧ Written s.osz d r s t ∧ SameOutside s t ∧
    t.ip = s.ip ∧ StoredFlagsKept s.flags t.flags

/-- What SHL of `a` by `c` gives: the result, CF, and OF for a count of 1; SF, ZF, PF by the result. -/
def ShlOk {n : Nat} (a : BitVec n) (c : Nat) (r : BitVec n) (g : Flags) : Prop :=
  r.toNat = a.toNat * 2 ^ c % 2 ^ n ∧ (g.cf = true ↔ c ≤ n ∧ a.getLsbD (n - c) = true) ∧
    (c = 1 → (g.ofl = true ↔ a.getLsbD (n - 1) ≠ a.getLsbD (n - 2))) ∧ SzpOf r g

/-- What SHR of `a` by `c` gives. -/
def ShrOk {n : Nat} (a : BitVec n) (c : Nat) (r : BitVec n) (g : Flags) : Prop :=
  r.toNat = a.toNat / 2 ^ c ∧ (g.cf = true ↔ c ≤ n ∧ a.getLsbD (c - 1) = true) ∧
    (c = 1 → (g.ofl = true ↔ a.getLsbD (n - 1) = true)) ∧ SzpOf r g

/-- What SAR of `a` by `c` gives: division by 2^c toward minus infinity. -/
def SarOk {n : Nat} (a : BitVec n) (c : Nat) (r : BitVec n) (g : Flags) : Prop :=
  r.toInt = a.toInt / 2 ^ c ∧ (g.cf = true ↔ if c < n then a.getLsbD (c - 1) = true else a.toInt < 0) ∧
    (c = 1 → g.ofl = false) ∧ SzpOf r g

/-- 44_shift_rotate.md R318 to R320, R313: SHL, SHR and SAR with each count source, in closed form. -/
def Obligations.ShiftsInClosedForm : Prop :=
  ∀ (d : Rm) (b : Byte) (s : State), Accessible s.osz d s →
    let a := operand s.osz d s
    let cl := readReg .w8 1 s
    (ShiftDone d s (exec (.shlRmvOne d) s) (ShlOk a 1) ∧ ShiftDone d s (exec (.shrRmvOne d) s) (ShrOk a 1) ∧
        ShiftDone d s (exec (.sarRmvOne d) s) (SarOk a 1)) ∧
      (countOf b ≠ 0 →
        ShiftDone d s (exec (.shlRmvImm8 d b) s) (ShlOk a (countOf b)) ∧
          ShiftDone d s (exec (.shrRmvImm8 d b) s) (ShrOk a (countOf b)) ∧
          ShiftDone d s (exec (.sarRmvImm8 d b) s) (SarOk a (countOf b))) ∧
      (countOf cl ≠ 0 →
        ShiftDone d s (exec (.shlRmvCl d) s) (ShlOk a (countOf cl)) ∧
          ShiftDone d s (exec (.shrRmvCl d) s) (ShrOk a (countOf cl)) ∧
          ShiftDone d s (exec (.sarRmvCl d) s) (SarOk a (countOf cl)))

/-- The flags a rotate keeps at every count (44_shift_rotate.md, section 2). -/
def RotateKeeps (f g : Flags) : Prop := g.sf = f.sf ∧ g.zf = f.zf ∧ g.pf = f.pf ∧ g.af = f.af

/-- What ROL of `a` by `c` gives: bit k goes to bit (k + c) mod n. -/
def RolOk {n : Nat} (a : BitVec n) (c : Nat) (f : Flags) (r : BitVec n) (g : Flags) : Prop :=
  (∀ k, k < n → r.getLsbD ((k + c) % n) = a.getLsbD k) ∧ g.cf = r.getLsbD 0 ∧
    (c = 1 → g.ofl = (r.getLsbD (n - 1) ^^ r.getLsbD 0)) ∧ RotateKeeps f g

/-- What ROR of `a` by `c` gives: bit (k + c) mod n goes to bit k. -/
def RorOk {n : Nat} (a : BitVec n) (c : Nat) (f : Flags) (r : BitVec n) (g : Flags) : Prop :=
  (∀ k, k < n → r.getLsbD k = a.getLsbD ((k + c) % n)) ∧ g.cf = r.getLsbD (n - 1) ∧
    (c = 1 → g.ofl = (r.getLsbD (n - 1) ^^ r.getLsbD (n - 2))) ∧ RotateKeeps f g

/-- 44_shift_rotate.md R314, R315, R313: ROL and ROR with each count source. -/
def Obligations.RotatesMoveEachBit : Prop :=
  ∀ (d : Rm) (b : Byte) (s : State), Accessible s.osz d s →
    let a := operand s.osz d s
    let cl := readReg .w8 1 s
    (ShiftDone d s (exec (.rolRmvOne d) s) (RolOk a 1 s.flags) ∧
        ShiftDone d s (exec (.rorRmvOne d) s) (RorOk a 1 s.flags)) ∧
      (countOf b ≠ 0 →
        ShiftDone d s (exec (.rolRmvImm8 d b) s) (RolOk a (countOf b) s.flags) ∧
          ShiftDone d s (exec (.rorRmvImm8 d b) s) (RorOk a (countOf b) s.flags)) ∧
      (countOf cl ≠ 0 →
        ShiftDone d s (exec (.rolRmvCl d) s) (RolOk a (countOf cl) s.flags) ∧
          ShiftDone d s (exec (.rorRmvCl d) s) (RorOk a (countOf cl) s.flags))

/-- A bit of the ring of n + 1 bits that CF and the operand form, CF on top (44_shift_rotate.md R316). -/
def ringBit {n : Nat} (a : BitVec n) (cf : Bool) (k : Nat) : Bool := if k = n then cf else a.getLsbD k

/-- What RCL of `a` by `c` gives: the ring turns left by `c` places. -/
def RclOk {n : Nat} (a : BitVec n) (c : Nat) (f : Flags) (r : BitVec n) (g : Flags) : Prop :=
  (∀ k, k < n + 1 → ringBit r g.cf ((k + c) % (n + 1)) = ringBit a f.cf k) ∧
    (c = 1 → g.ofl = (r.getLsbD (n - 1) ^^ g.cf)) ∧ RotateKeeps f g

/-- What RCR of `a` by `c` gives: the ring turns right by `c` places. -/
def RcrOk {n : Nat} (a : BitVec n) (c : Nat) (f : Flags) (r : BitVec n) (g : Flags) : Prop :=
  (∀ k, k < n + 1 → ringBit r g.cf k = ringBit a f.cf ((k + c) % (n + 1))) ∧
    (c = 1 → g.ofl = (r.getLsbD (n - 1) ^^ r.getLsbD (n - 2))) ∧ RotateKeeps f g

/-- 44_shift_rotate.md R316, R317, R313: RCL and RCR with each count source turn the ring of CF and the operand. -/
def Obligations.CarryRotatesTurnTheRing : Prop :=
  ∀ (d : Rm) (b : Byte) (s : State), Accessible s.osz d s →
    let a := operand s.osz d s
    let cl := readReg .w8 1 s
    (ShiftDone d s (exec (.rclRmvOne d) s) (RclOk a 1 s.flags) ∧
        ShiftDone d s (exec (.rcrRmvOne d) s) (RcrOk a 1 s.flags)) ∧
      (countOf b ≠ 0 →
        ShiftDone d s (exec (.rclRmvImm8 d b) s) (RclOk a (countOf b) s.flags) ∧
          ShiftDone d s (exec (.rcrRmvImm8 d b) s) (RcrOk a (countOf b) s.flags)) ∧
      (countOf cl ≠ 0 →
        ShiftDone d s (exec (.rclRmvCl d) s) (RclOk a (countOf cl) s.flags) ∧
          ShiftDone d s (exec (.rcrRmvCl d) s) (RcrOk a (countOf cl) s.flags))

/-! ## Data movement -/

/-- An instruction completes with `v` in `d`, every flag and all else as before. -/
def MoveDone (w : Width) (d : Rm) (v : BitVec w.bits) (s : State) (out : Out State) : Prop :=
  ∃ t, out = .next t ∧ Written w d v s t ∧ t.flags = s.flags ∧ SameElse s t

/-- 45_data_movement.md R350 to R358: the eight forms of MOV. -/
def Obligations.MovForms : Prop :=
  ∀ (x r : RegIdx) (d : Rm) (b : Byte) (v : Word) (s : State),
    (Accessible .w8 d s →
      MoveDone .w8 d (readReg .w8 r s) s (exec (.movRm8R8 d r) s) ∧
        MoveDone .w8 (.reg r) (operand .w8 d s) s (exec (.movR8Rm8 r d) s) ∧
        MoveDone .w8 d b s (exec (.movRm8Imm8 x d b) s)) ∧
      (Accessible s.osz d s →
        MoveDone s.osz d (readReg s.osz r s) s (exec (.movRmvRv d r) s) ∧
          MoveDone s.osz (.reg r) (operand s.osz d s) s (exec (.movRvRmv r d) s) ∧
          MoveDone s.osz d (v.setWidth s.osz.bits) s (exec (.movRmvImmv x d v) s)) ∧
      MoveDone .w8 (.reg r) b s (exec (.movR8Imm8 r b) s) ∧
      MoveDone s.osz (.reg r) (v.setWidth s.osz.bits) s (exec (.movRvImmv r v) s)

/-- 45_data_movement.md R359: LEA writes the address, cut to the operand size, whether or not memory reaches there. -/
def Obligations.LeaWritesTheAddress : Prop :=
  ∀ (r : RegIdx) (o : MemOperand) (s : State), s.pfx.as32 = true →
    MoveDone s.osz (.reg r) ((ea o s).setWidth s.osz.bits) s (exec (.lea r o) s)

/-! ## The stack -/

/-- An instruction completes a push of `v`, every flag and all else as before. -/
def PushDone (w : Width) (v : BitVec w.bits) (s : State) (out : Out State) : Prop :=
  ∃ t, out = .next t ∧ Pushed w v s t ∧ t.flags = s.flags ∧ SameElse s t

/-- 46_stack.md R371 to R374: the four forms of PUSH; the operand is read before ESP moves. -/
def Obligations.PushForms : Prop :=
  ∀ (r : RegIdx) (d : Rm) (b : Byte) (v : Word) (s : State), PushFits s.osz s →
    PushDone s.osz (readReg s.osz r s) s (exec (.pushRv r) s) ∧
      PushDone s.osz (v.setWidth s.osz.bits) s (exec (.pushImmv v) s) ∧
      PushDone s.osz (b.signExtend s.osz.bits) s (exec (.pushImm8s b) s) ∧
      (Accessible s.osz d s → PushDone s.osz (operand s.osz d s) s (exec (.pushRmv d) s))

/-- 46_stack.md R375, R376: POP reads at ESP, moves ESP, and then writes its operand, whose address uses the new ESP. -/
def Obligations.PopForms : Prop :=
  ∀ (x r : RegIdx) (d : Rm) (s : State), PopFits s.osz s →
    let v := s.mem.read (s.reg esp).toNat s.osz
    let s1 := s.setReg esp (s.reg esp + BitVec.ofNat 32 s.osz.bytes)
    (∃ t, exec (.popRv r) s = .next t ∧ Written s.osz (.reg r) v s1 t ∧ t.flags = s.flags ∧ SameElse s t) ∧
      (Accessible s.osz d s1 →
        ∃ t, exec (.popRmv x d) s = .next t ∧ Written s.osz d v s1 t ∧ t.flags = s.flags ∧ SameElse s t)

/-- 46_stack.md R382: LEAVE copies EBP to ESP and pops EBP. -/
def Obligations.LeaveReleasesTheFrame : Prop :=
  ∀ s : State, s.pfx.opovr = false → (s.reg ebp).toNat + 4 ≤ s.mem.capacity →
    ∃ t, exec .leave s = .next t ∧ t.reg esp = s.reg ebp + 4 ∧ t.reg ebp = s.mem.read (s.reg ebp).toNat .w32 ∧
      (∀ i, i ≠ esp → i ≠ ebp → t.reg i = s.reg i) ∧ BytesKept s t ∧ t.flags = s.flags ∧ SameElse s t

/-- 46_stack.md R370, R376, R382, R383, 47_control_transfer.md R420 to R422: a push or a pop outside memory, by whichever
instruction, faults with the address, the width and the direction; so does POP into memory whose destination is outside. -/
def Obligations.StackFaultsOutsideMemory : Prop :=
  ∀ (x r : RegIdx) (d : Rm) (o : MemOperand) (b : Byte) (v : Word) (s : State),
    let oob (a : Word) (n : Nat) (dir : Access) : Out State := .fault (.outOfBoundsMemoryAccess s.ipStart a n dir)
    let n := s.osz.bytes
    (¬ PushFits s.osz s →
      let out := oob (s.reg esp - BitVec.ofNat 32 n) n .write
      exec (.pushRv r) s = out ∧ exec (.pushImmv v) s = out ∧ exec (.pushImm8s b) s = out ∧
        (Accessible s.osz d s → exec (.pushRmv d) s = out)) ∧
      (¬ PopFits s.osz s →
        exec (.popRv r) s = oob (s.reg esp) n .read ∧ exec (.popRmv x (.reg r)) s = oob (s.reg esp) n .read ∧
          (s.pfx.as32 = true → exec (.popRmv x (.mem o)) s = oob (s.reg esp) n .read)) ∧
      (PopFits s.osz s → s.pfx.as32 = true →
        let a := ea o (s.setReg esp (s.reg esp + BitVec.ofNat 32 n))
        s.mem.capacity < a.toNat + n → exec (.popRmv x (.mem o)) s = oob a n .write) ∧
      (s.pfx.opovr = false →
        (¬ PushFits .w32 s → exec (.callRel32 v) s = oob (s.reg esp - 4) 4 .write ∧
          (Accessible .w32 d s → exec (.callRm32 d) s = oob (s.reg esp - 4) 4 .write)) ∧
        (s.pfx.as32 = true → s.mem.capacity < (ea o s).toNat + 4 → exec (.callRm32 (.mem o)) s = oob (ea o s) 4 .read) ∧
        (¬ PopFits .w32 s → exec .ret s = oob (s.reg esp) 4 .read) ∧
        (s.mem.capacity < (s.reg ebp).toNat + 4 → exec .leave s = oob (s.reg ebp) 4 .read))

/-! ## Control transfer -/

/-- An instruction completes with IP at `target` and everything else as before. -/
def JumpDone (target : Word) (s : State) (out : Out State) : Prop :=
  ∃ t, out = .next t ∧ t.ip = target ∧ RegsKept s t ∧ BytesKept s t ∧ t.flags = s.flags ∧ SameOutside s t ∧
    t.freeCount = s.freeCount

/-- 47_control_transfer.md R390 to R392, R441: the unconditional jumps, from the address after the instruction; prefix 66
refuses them. -/
def Obligations.JumpsAddTheirOffset : Prop :=
  ∀ (b : Byte) (v : Word) (s : State),
    (s.pfx.opovr = false →
      JumpDone (BitVec.ofInt 32 (s.ip.toNat + b.toInt)) s (exec (.jmpRel8 b) s) ∧
        JumpDone (BitVec.ofInt 32 (s.ip.toNat + v.toInt)) s (exec (.jmpRel32 v) s)) ∧
      (s.pfx.opovr = true →
        exec (.jmpRel8 b) s = .refused .opsize16Transfer ∧ exec (.jmpRel32 v) s = .refused .opsize16Transfer)

/-- 47_control_transfer.md R393 to R409, R441: the sixteen conditional jumps, short and near; prefix 66 refuses each, taken
or not. -/
def Obligations.ConditionalJumps : Prop :=
  ∀ (b : Byte) (v : Word) (s : State),
    let go (taken : Bool) (i j : Instr) : Prop :=
      (s.pfx.opovr = false →
        JumpDone (if taken then BitVec.ofInt 32 (s.ip.toNat + b.toInt) else s.ip) s (exec i s) ∧
          JumpDone (if taken then BitVec.ofInt 32 (s.ip.toNat + v.toInt) else s.ip) s (exec j s)) ∧
        (s.pfx.opovr = true → exec i s = .refused .opsize16Transfer ∧ exec j s = .refused .opsize16Transfer)
    let f := s.flags
    go f.ofl (.joRel8 b) (.joRel32 v) ∧ go (!f.ofl) (.jnoRel8 b) (.jnoRel32 v) ∧
      go f.cf (.jbRel8 b) (.jbRel32 v) ∧ go (!f.cf) (.jaeRel8 b) (.jaeRel32 v) ∧
      go f.zf (.jeRel8 b) (.jeRel32 v) ∧ go (!f.zf) (.jneRel8 b) (.jneRel32 v) ∧
      go (f.cf || f.zf) (.jbeRel8 b) (.jbeRel32 v) ∧ go (!(f.cf || f.zf)) (.jaRel8 b) (.jaRel32 v) ∧
      go f.sf (.jsRel8 b) (.jsRel32 v) ∧ go (!f.sf) (.jnsRel8 b) (.jnsRel32 v) ∧
      go f.pf (.jpRel8 b) (.jpRel32 v) ∧ go (!f.pf) (.jnpRel8 b) (.jnpRel32 v) ∧
      go (f.sf ^^ f.ofl) (.jlRel8 b) (.jlRel32 v) ∧ go (!(f.sf ^^ f.ofl)) (.jgeRel8 b) (.jgeRel32 v) ∧
      go (f.zf || (f.sf ^^ f.ofl)) (.jleRel8 b) (.jleRel32 v) ∧
      go (!(f.zf || (f.sf ^^ f.ofl))) (.jgRel8 b) (.jgRel32 v)

/-- 47_control_transfer.md R420 to R422: CALL pushes the address after it and goes to its target, RET pops its target. -/
def Obligations.CallsAndReturn : Prop :=
  ∀ (v : Word) (d : Rm) (s : State), s.pfx.opovr = false →
    (PushFits .w32 s →
      (∃ t, exec (.callRel32 v) s = .next t ∧ t.ip = BitVec.ofInt 32 (s.ip.toNat + v.toInt) ∧ Pushed .w32 s.ip s t ∧
        t.flags = s.flags ∧ SameOutside s t ∧ t.freeCount = s.freeCount) ∧
      (Accessible .w32 d s →
        ∃ t, exec (.callRm32 d) s = .next t ∧ t.ip = operand .w32 d s ∧ Pushed .w32 s.ip s t ∧ t.flags = s.flags ∧
          SameOutside s t ∧ t.freeCount = s.freeCount)) ∧
      (PopFits .w32 s →
        ∃ t, exec .ret s = .next t ∧ t.ip = s.mem.read (s.reg esp).toNat .w32 ∧ t.reg esp = s.reg esp + 4 ∧
          RegsKeptBut esp s t ∧ BytesKept s t ∧ t.flags = s.flags ∧ SameOutside s t ∧ t.freeCount = s.freeCount)

/-- 47_control_transfer.md R440, 60_exceptions.md R506: INT always completes; the dispatcher's answer gives the registers,
the flags and the bytes of memory it wrote, the last one where it wrote twice, IP and PFX are as before, and an unhandled
vector is reported. The answer itself is the host's, applied whether handled or not (log 5, log 6). -/
def Obligations.IntCallsTheDispatcher : Prop :=
  ∀ (v : Byte) (s : State),
    let r := Config.intDispatch v s.view
    ∃ t, exec (.intImm8 v) s = .next t ∧ t.regs = r.regs ∧ t.flags = Flags.ofWord r.flags ∧ t.ip = s.ip ∧
      t.pfx = s.pfx ∧ t.mem.capacity = s.mem.capacity ∧ t.ipStart = s.ipStart ∧ t.freeCount = s.freeCount ∧
      t.hostCalls = s.hostCalls ++ [.intDispatch v r.handled] ∧
      t.notice = (if r.handled then s.notice else some { vector := v, ipStart := s.ipStart }) ∧
      ∀ a, t.mem.byte a =
        if a < s.mem.capacity then ((r.writes.reverse.find? fun c => c.1 == a).map fun c => c.2).getD (s.mem.byte a)
        else s.mem.byte a

/-! ## String store and ports -/

/-- All that STOS leaves alone: registers but EDI and ECX, flags, IP, and PFX but the repeat bits, which it clears. -/
def StosKeeps (s t : State) : Prop :=
  (∀ i, i ≠ edi → i ≠ ecx → t.reg i = s.reg i) ∧ t.flags = s.flags ∧ t.ip = s.ip ∧
    t.pfx = { s.pfx with repz := false, repnz := false } ∧ t.mem.capacity = s.mem.capacity ∧ t.ipStart = s.ipStart ∧
    t.notice = s.notice ∧ t.hostCalls = s.hostCalls ∧ t.freeCount = s.freeCount

/-- 48_string_io.md R450, R451: STOS without a repeat prefix stores one item and moves EDI by DF, or faults where the item
does not lie in memory. -/
def Obligations.StosStoresOneItem : Prop :=
  ∀ s : State, s.pfx.as32 = true → s.pfx.repz = false → s.pfx.repnz = false →
    let n := s.osz.bytes
    let p := (s.reg edi).toNat
    (p + n ≤ s.mem.capacity →
      ∃ t, exec .stos s = .next t ∧ t.mem.read p s.osz = readReg s.osz 0 s ∧ BytesKeptBut p n s t ∧
        t.reg edi = BitVec.ofInt 32 (p + if s.flags.df then -(n : Int) else n) ∧ t.reg ecx = s.reg ecx ∧
        StosKeeps s t) ∧
      (s.mem.capacity < p + n → exec .stos s = .fault (.outOfBoundsMemoryAccess s.ipStart (s.reg edi) n .write))

/-- 48_string_io.md R451: STOS with a repeat prefix stores ECX items, upwards or downwards by DF, and leaves ECX zero; the
items of a run upwards start at EDI, of a run downwards at EDI and below it; a run upwards past the end of memory faults at
the first item that does not lie in it. -/
def Obligations.StosRepeatsEcxTimes : Prop :=
  ∀ s : State, s.pfx.as32 = true → (s.pfx.repz = true ∨ s.pfx.repnz = true) → s.mem.capacity ≤ 2 ^ 32 →
    let n := s.osz.bytes
    let c := (s.reg ecx).toNat
    let p := (s.reg edi).toNat
    (s.flags.df = false → (c ≠ 0 → p + c * n ≤ s.mem.capacity) →
      ∃ t, exec .stos s = .next t ∧ (∀ k, k < c → t.mem.read (p + k * n) s.osz = readReg s.osz 0 s) ∧
        BytesKeptBut p (c * n) s t ∧ t.reg edi = BitVec.ofInt 32 (p + c * n) ∧ t.reg ecx = 0 ∧ StosKeeps s t) ∧
      (s.flags.df = true → (c ≠ 0 → (c - 1) * n ≤ p ∧ p + n ≤ s.mem.capacity) →
        ∃ t, exec .stos s = .next t ∧ (∀ k, k < c → t.mem.read (p - k * n) s.osz = readReg s.osz 0 s) ∧
          BytesKeptBut (p + n - c * n) (c * n) s t ∧ t.reg edi = BitVec.ofInt 32 (p - c * n) ∧ t.reg ecx = 0 ∧
          StosKeeps s t) ∧
      (s.flags.df = false → s.mem.capacity < 2 ^ 32 → c ≠ 0 → s.mem.capacity < p + c * n →
        exec .stos s =
          .fault (.outOfBoundsMemoryAccess s.ipStart (BitVec.ofNat 32 (p + (s.mem.capacity - p) / n * n)) n .write))

/-- 48_string_io.md R455 to R459: IN asks the backend once and writes AL only, OUT gives AL to the backend once and writes
nothing; the port is the immediate, zero-extended, or DX. What the backend answers is the host's (log 4). -/
def Obligations.PortInstructions : Prop :=
  ∀ (b : Byte) (s : State),
    let dx : BitVec 16 := readReg .w16 2 s
    let input (port : BitVec 16) (i : Instr) : Prop :=
      ∃ t, exec i s = .next t ∧ RegWritten .w8 0 (Config.portIn8 s.hostCalls port) s t ∧ BytesKept s t ∧
        t.flags = s.flags ∧ t.ip = s.ip ∧ t.pfx = s.pfx ∧ t.mem.capacity = s.mem.capacity ∧
        t.hostCalls = s.hostCalls ++ [.portIn port (Config.portIn8 s.hostCalls port)] ∧ t.notice = s.notice ∧
        t.ipStart = s.ipStart ∧ t.freeCount = s.freeCount
    let output (port : BitVec 16) (i : Instr) : Prop :=
      ∃ t, exec i s = .next t ∧ RegsKept s t ∧ BytesKept s t ∧ t.flags = s.flags ∧ t.ip = s.ip ∧ t.pfx = s.pfx ∧
        t.mem.capacity = s.mem.capacity ∧ t.hostCalls = s.hostCalls ++ [.portOut port (readReg .w8 0 s)] ∧
        t.notice = s.notice ∧ t.ipStart = s.ipStart ∧ t.freeCount = s.freeCount
    input (b.setWidth 16) (.inAlImm8 b) ∧ input dx .inAlDx ∧ output (b.setWidth 16) (.outImm8Al b) ∧ output dx .outDxAl

/-- What a step from `s` refuses after the prefix bytes that lead from `s.begin` to `t` (30_encoding.md R139, 49_dispatch.md
R490): by the first byte, by the first two, and CALL r/m32 by its whole encoding. -/
def StepRefusals (s t : State) : Prop :=
  let first := t.mem.byte t.ip.toNat
  let second := t.mem.byte (t.ip + 1).toNat
  (t.ip.toNat < t.mem.capacity →
    (t.pfx.opovr = true → first ∈ 0xC3#8 :: relOpcodes → step s = .refused .opsize16Transfer) ∧
      (t.pfx.opovr = true → first = 0xC9 → step s = .refused .opsize16Leave) ∧
      (t.pfx.as32 = false → first = 0xAB → step s = .refused .addr16Stos) ∧
      ((t.ip + 1).toNat < t.mem.capacity →
        (t.pfx.opovr = true → first = 0x0F → 0x80 ≤ second.toNat ∧ second.toNat ≤ 0x8F →
          step s = .refused .opsize16Transfer) ∧
        (t.pfx.as32 = false → first ∈ modrmOpcodes → second.toNat < 0xC0 → step s = .refused .addr16) ∧
        (first = 0x8D → 0xC0 ≤ second.toNat → step s = .refused .leaReg))) ∧
    ∀ d : Rm, t.pfx.opovr = true → d.wf t.decodeMode = true →
      HoldsBytes t.mem t.ip (encode t.decodeMode (.callRm32 d)) → step s = .refused .opsize16Transfer

/-- 30_encoding.md R139, 41_addressing.md R184, 45_data_movement.md R359, 46_stack.md R382, 47_control_transfer.md R421, R441,
48_string_io.md R451: what prefix 66 and prefix 67 refuse of CALL, RET, LEAVE and STOS as meanings, and all that a step
refuses: under prefix 66 every control transfer and LEAVE, under prefix 67 every memory operand and STOS, and LEA with
mod = 3. -/
def Obligations.SizePrefixRefusals : Prop :=
  (∀ (s : State) (v : Word) (r : RegIdx) (o : MemOperand),
    (s.pfx.opovr = true →
      exec (.callRel32 v) s = .refused .opsize16Transfer ∧ exec (.callRm32 (.reg r)) s = .refused .opsize16Transfer ∧
        (s.pfx.as32 = true → exec (.callRm32 (.mem o)) s = .refused .opsize16Transfer) ∧
        exec .ret s = .refused .opsize16Transfer ∧ exec .leave s = .refused .opsize16Leave) ∧
      (s.pfx.as32 = false →
        exec .stos s = .refused .addr16Stos ∧ exec (.callRm32 (.mem o)) s = .refused .addr16)) ∧
    ∀ (n : Nat) (s t : State), PrefixRun n s.begin t → n ≤ s.mem.capacity → StepRefusals s t
end

