-- ==== Sys2Proof/Laws/Memory.lean ====
section
/-! SUPPORT. Memory: read after write, bytes outside a write, and the canonical form kept by every operation. -/

namespace Sys2Proof.Machine

open Sys2Proof

/-! ## One byte -/

theorem cellsGet_erase (cs : List Host.Cell) (a b : Nat) :
    cellsGet (cellsErase a cs) b = if b = a then 0 else cellsGet cs b := by
  induction cs with
  | nil => simp [cellsErase, cellsGet]
  | cons c cs ih =>
    obtain ⟨k, v⟩ := c
    simp only [cellsErase] at ih
    by_cases h : k = a
    · subst h
      by_cases hb : b = k
      · simpa [cellsErase, cellsGet, hb] using ih
      · have hb' : k ≠ b := fun e => hb e.symm
        simpa [cellsErase, cellsGet, hb, hb'] using ih
    · by_cases hb : k = b
      · subst hb
        simp [cellsErase, cellsGet, h]
      · simpa [cellsErase, cellsGet, h, hb] using ih

theorem cellsGet_insert (cs : List Host.Cell) (a b : Nat) (v : Byte) (hne : ∀ c ∈ cs, c.1 ≠ a) :
    cellsGet (cellsInsert a v cs) b = if b = a then v else cellsGet cs b := by
  induction cs with
  | nil =>
    by_cases hb : a = b
    · simp [cellsInsert, cellsGet, hb]
    · simp [cellsInsert, cellsGet, hb, Ne.symm hb]
  | cons c cs ih =>
    obtain ⟨k, w⟩ := c
    have hk : k ≠ a := hne (k, w) (by simp)
    have ih' := ih fun c hc => hne c (by simp [hc])
    by_cases hlt : a < k
    · by_cases hb : a = b
      · subst hb; simp [cellsInsert, cellsGet, hlt]
      · simp [cellsInsert, cellsGet, hlt, hb, Ne.symm hb]
    · simp only [cellsInsert, hlt, if_false, cellsGet, ih']
      by_cases hkb : k = b
      · subst hkb; simp [hk]
      · simp [hkb]

/-- A byte just stored reads as what was stored; every other byte is left alone. -/
theorem cellsGet_set (cs : List Host.Cell) (a b : Nat) (v : Byte) :
    cellsGet (cellsSet cs a v) b = if b = a then v else cellsGet cs b := by
  unfold cellsSet
  split
  · rename_i h; subst h; exact cellsGet_erase cs a b
  · rw [cellsGet_insert _ _ _ _ (by intro c hc; simpa using (List.mem_filter.1 hc).2), cellsGet_erase]
    split <;> rfl

@[simp] theorem Memory.setByte_capacity (m : Memory) (a : Nat) (v : Byte) : (m.setByte a v).capacity = m.capacity := rfl

theorem Memory.setByte_byte (m : Memory) (a b : Nat) (v : Byte) :
    (m.setByte a v).byte b = if b = a then v else m.byte b := cellsGet_set m.cells a b v

/-! ## Several bytes -/

@[simp] theorem Memory.writeBytes_capacity (m : Memory) (a : Nat) (bs : List Byte) :
    (m.writeBytes a bs).capacity = m.capacity := by
  induction bs generalizing m a with
  | nil => rfl
  | cons b bs ih => simp [Memory.writeBytes, ih]

/-- Writing bytes changes exactly the addresses written (20_memory.md R63). -/
theorem Memory.writeBytes_byte (m : Memory) (a b : Nat) (bs : List Byte) :
    (m.writeBytes a bs).byte b = if a ≤ b ∧ b < a + bs.length then bs.getD (b - a) 0 else m.byte b := by
  induction bs generalizing m a with
  | nil => simp [Memory.writeBytes]
  | cons x bs ih =>
    simp only [Memory.writeBytes, ih, Memory.setByte_byte, List.length_cons]
    by_cases h : b = a
    · subst h
      have h1 : ¬ (b + 1 ≤ b ∧ b < b + 1 + bs.length) := by omega
      have h2 : b ≤ b ∧ b < b + (bs.length + 1) := by omega
      simp
    · by_cases h1 : a + 1 ≤ b ∧ b < a + 1 + bs.length
      · have h2 : a ≤ b ∧ b < a + (bs.length + 1) := by omega
        have h3 : b - a = (b - (a + 1)) + 1 := by omega
        rw [if_pos h1, if_pos h2, h3]
        simp
      · have h2 : ¬ (a ≤ b ∧ b < a + (bs.length + 1)) := by omega
        rw [if_neg h1, if_neg h2, if_neg h]

theorem Memory.writeBytes_byte_outside (m : Memory) {a b : Nat} (bs : List Byte) (h : ¬ (a ≤ b ∧ b < a + bs.length)) :
    (m.writeBytes a bs).byte b = m.byte b := by rw [Memory.writeBytes_byte, if_neg h]

@[simp] theorem Memory.bytes_length (m : Memory) (a n : Nat) : (m.bytes a n).length = n := by
  induction n generalizing a with
  | zero => rfl
  | succ n ih => simp [Memory.bytes, ih]

theorem Memory.bytes_congr {m m' : Memory} {a n : Nat} (h : ∀ b, a ≤ b → b < a + n → m.byte b = m'.byte b) :
    m.bytes a n = m'.bytes a n := by
  induction n generalizing a with
  | zero => rfl
  | succ n ih =>
    simp only [Memory.bytes]
    rw [h a (by omega) (by omega), ih fun b h1 h2 => h b (by omega) (by omega)]

/-- Reading the bytes just written gives them back (20_memory.md R80). -/
theorem Memory.writeBytes_bytes (m : Memory) (a : Nat) (bs : List Byte) : (m.writeBytes a bs).bytes a bs.length = bs := by
  induction bs generalizing m a with
  | nil => rfl
  | cons x bs ih =>
    simp only [List.length_cons, Memory.bytes, Memory.writeBytes]
    rw [ih, Memory.writeBytes_byte_outside _ _ (by omega), Memory.setByte_byte, if_pos rfl]

@[simp] theorem leBytes_length (n : Nat) (v : Word) : (leBytes n v).length = n := by
  induction n generalizing v with
  | zero => rfl
  | succ n ih => simp [leBytes, ih]

/-- The bytes of a value, read back: the value cut to as many bytes (20_memory.md R62 to R64). -/
theorem leValue_leBytes_getLsbD (n : Nat) (v : Word) (k : Nat) :
    (leValue (leBytes n v)).getLsbD k = (decide (k < 8 * n) && v.getLsbD k) := by
  induction n generalizing v k with
  | zero => simp [leBytes, leValue]
  | succ n ih =>
    simp only [leBytes, leValue, BitVec.getLsbD_or, BitVec.getLsbD_setWidth, BitVec.getLsbD_shiftLeft, ih,
      BitVec.getLsbD_ushiftRight]
    by_cases h : k < 8
    · have h1 : k < 32 := by omega
      have h2 : k < 8 * (n + 1) := by omega
      simp [h, h1, h2]
    · by_cases h1 : k < 32
      · have h3 : 8 + (k - 8) = k := by omega
        have h4 : (k - 8 < 8 * n) ↔ (k < 8 * (n + 1)) := by omega
        simp [h, h1, h3, h4]
      · have : v.getLsbD k = false := BitVec.getLsbD_of_ge v k (by omega)
        simp [h, h1, this]

theorem leValue_leBytes_width (w : Width) (v : BitVec w.bits) :
    (leValue (leBytes w.bytes (v.setWidth 32))).setWidth w.bits = v := by
  apply BitVec.eq_of_getLsbD_eq
  intro k hk
  have hk' : k < 32 := by cases w <;> simp_all [Width.bits] <;> omega
  have hk'' : k < 8 * w.bytes := by cases w <;> simp_all [Width.bits, Width.bytes]
  rw [BitVec.getLsbD_setWidth, leValue_leBytes_getLsbD, BitVec.getLsbD_setWidth]
  simp only [hk, hk', hk'', decide_true, Bool.true_and]

theorem leValue_leBytes_four (v : Word) : leValue (leBytes 4 v) = v := by
  apply BitVec.eq_of_getLsbD_eq
  intro k hk
  have : k < 8 * 4 := by omega
  rw [leValue_leBytes_getLsbD]
  simp only [this, decide_true, Bool.true_and]

/-! ## The accessors -/

@[simp] theorem Memory.write_capacity (m : Memory) (a : Nat) (w : Width) (v : BitVec w.bits) :
    (m.write a w v).capacity = m.capacity := Memory.writeBytes_capacity ..

/-- A value just written reads back (20_memory.md R80). -/
@[simp] theorem Memory.read_write_same (m : Memory) (a : Nat) (w : Width) (v : BitVec w.bits) :
    (m.write a w v).read a w = v := by
  have h := Memory.writeBytes_bytes m a (leBytes w.bytes (v.setWidth 32))
  rw [leBytes_length] at h
  rw [Memory.read, Memory.write, h, leValue_leBytes_width]

/-- A write changes exactly its bytes (20_memory.md R63). -/
theorem Memory.write_byte_outside (m : Memory) {a b : Nat} (w : Width) (v : BitVec w.bits)
    (h : ¬ (a ≤ b ∧ b < a + w.bytes)) : (m.write a w v).byte b = m.byte b :=
  Memory.writeBytes_byte_outside _ _ (by simpa using h)

/-- A read sees its bytes only (20_memory.md R62). -/
theorem Memory.read_congr {m m' : Memory} {a : Nat} {w : Width}
    (h : ∀ b, a ≤ b → b < a + w.bytes → m.byte b = m'.byte b) : m.read a w = m'.read a w := by
  rw [Memory.read, Memory.read, Memory.bytes_congr h]

/-- A read beside a write is left alone. -/
theorem Memory.read_write_apart (m : Memory) {a b : Nat} (w w' : Width) (v : BitVec w.bits)
    (h : a + w.bytes ≤ b ∨ b + w'.bytes ≤ a) : (m.write a w v).read b w' = m.read b w' :=
  Memory.read_congr fun c h1 h2 => Memory.write_byte_outside _ _ _ (by omega)

/-! ## The canonical form -/

theorem cellsWf_mono {cap lo lo' : Nat} {cs : List Host.Cell} (hl : lo' ≤ lo) (h : cellsWf cap lo cs = true) :
    cellsWf cap lo' cs = true := by
  cases cs with
  | nil => rfl
  | cons c cs =>
    obtain ⟨k, v⟩ := c
    simp only [cellsWf, Bool.and_eq_true, decide_eq_true_eq] at h ⊢
    exact ⟨⟨⟨by omega, h.1.1.2⟩, h.1.2⟩, h.2⟩

theorem cellsWf_erase {cap lo : Nat} {cs : List Host.Cell} (a : Nat) (h : cellsWf cap lo cs = true) :
    cellsWf cap lo (cellsErase a cs) = true := by
  induction cs generalizing lo with
  | nil => rfl
  | cons c cs ih =>
    obtain ⟨k, v⟩ := c
    simp only [cellsWf, Bool.and_eq_true, decide_eq_true_eq] at h
    have ih' := ih h.2
    by_cases hk : k = a
    · have : cellsErase a ((k, v) :: cs) = cellsErase a cs := by simp [cellsErase, hk]
      rw [this]
      exact cellsWf_mono (by omega) ih'
    · have : cellsErase a ((k, v) :: cs) = (k, v) :: cellsErase a cs := by simp [cellsErase, hk]
      rw [this]
      simp only [cellsWf, Bool.and_eq_true, decide_eq_true_eq]
      exact ⟨h.1, ih'⟩

theorem cellsWf_insert {cap lo a : Nat} {v : Byte} {cs : List Host.Cell} (h : cellsWf cap lo cs = true)
    (hlo : lo ≤ a) (ha : a < cap) (hv : v ≠ 0) (hne : ∀ c ∈ cs, c.1 ≠ a) :
    cellsWf cap lo (cellsInsert a v cs) = true := by
  induction cs generalizing lo with
  | nil =>
    simp only [cellsInsert, cellsWf, Bool.and_eq_true, decide_eq_true_eq]
    exact ⟨⟨⟨hlo, ha⟩, bne_iff_ne.2 hv⟩, trivial⟩
  | cons c cs ih =>
    obtain ⟨k, w⟩ := c
    have hk : k ≠ a := hne (k, w) (by simp)
    simp only [cellsWf, Bool.and_eq_true, decide_eq_true_eq] at h
    obtain ⟨⟨⟨h1, h2⟩, h3⟩, h4⟩ := h
    by_cases hlt : a < k
    · have e : cellsInsert a v ((k, w) :: cs) = (a, v) :: (k, w) :: cs := by simp [cellsInsert, hlt]
      rw [e]
      simp only [cellsWf, Bool.and_eq_true, decide_eq_true_eq]
      exact ⟨⟨⟨hlo, ha⟩, bne_iff_ne.2 hv⟩, ⟨⟨by omega, h2⟩, h3⟩, h4⟩
    · have e : cellsInsert a v ((k, w) :: cs) = (k, w) :: cellsInsert a v cs := by simp [cellsInsert, hlt]
      rw [e]
      simp only [cellsWf, Bool.and_eq_true, decide_eq_true_eq]
      exact ⟨⟨⟨h1, h2⟩, h3⟩, ih h4 (by omega) fun c hc => hne c (by simp [hc])⟩

/-- Storing a byte inside memory keeps the canonical form. -/
theorem Memory.setByte_wf {m : Memory} (h : m.wf = true) {a : Nat} (v : Byte) (ha : a < m.capacity) :
    (m.setByte a v).wf = true := by
  unfold Memory.wf at *
  simp only [Memory.setByte, cellsSet]
  split
  · exact cellsWf_erase a h
  · rename_i hv
    exact cellsWf_insert (cellsWf_erase a h) (Nat.zero_le _) ha hv
      (by intro c hc; simpa using (List.mem_filter.1 hc).2)

theorem Memory.writeBytes_wf {m : Memory} (h : m.wf = true) {a : Nat} {bs : List Byte}
    (hb : a + bs.length ≤ m.capacity) : (m.writeBytes a bs).wf = true := by
  induction bs generalizing m a with
  | nil => exact h
  | cons x bs ih =>
    simp only [List.length_cons] at hb
    exact ih (Memory.setByte_wf h x (by omega)) (by simp; omega)

/-- A write inside memory keeps the canonical form. -/
theorem Memory.write_wf {m : Memory} (h : m.wf = true) {a : Nat} (w : Width) (v : BitVec w.bits)
    (hb : m.inBounds a w.bytes = true) : (m.write a w v).wf = true :=
  Memory.writeBytes_wf h (by simpa [Memory.inBounds] using hb)

@[simp] theorem Memory.hostWrites_capacity (m : Memory) (ws : List Host.Cell) :
    (m.hostWrites ws).capacity = m.capacity := by
  induction ws generalizing m with
  | nil => rfl
  | cons c ws ih =>
    obtain ⟨a, v⟩ := c
    simp only [Memory.hostWrites, ih]
    split <;> rfl

/-- The host's writes keep the canonical form (log 6). -/
theorem Memory.hostWrites_wf {m : Memory} (h : m.wf = true) (ws : List Host.Cell) : (m.hostWrites ws).wf = true := by
  induction ws generalizing m with
  | nil => exact h
  | cons c ws ih =>
    obtain ⟨a, v⟩ := c
    simp only [Memory.hostWrites]
    split
    · rename_i hb
      exact ih (Memory.setByte_wf h v (by simpa [Memory.inBounds, Nat.succ_le_iff] using hb))
    · exact ih h

/-- Two canonical lists of cells that read the same at every address are the same list: equal memories are equal data. -/
theorem cells_ext {cap lo : Nat} {cs ds : List Host.Cell} (hc : cellsWf cap lo cs = true) (hd : cellsWf cap lo ds = true)
    (h : ∀ a, cellsGet cs a = cellsGet ds a) : cs = ds := by
  have low : ∀ {cap lo a : Nat} {cs : List Host.Cell}, cellsWf cap lo cs = true → a < lo → cellsGet cs a = 0 := by
    intro cap lo a cs
    induction cs generalizing lo with
    | nil => intros; rfl
    | cons c cs ih =>
      obtain ⟨k, v⟩ := c
      intro hw ha
      simp only [cellsWf, Bool.and_eq_true, decide_eq_true_eq] at hw
      have : k ≠ a := by omega
      simp only [cellsGet, this, if_false]
      exact ih hw.2 (by omega)
  induction cs generalizing lo ds with
  | nil =>
    cases ds with
    | nil => rfl
    | cons d ds =>
      obtain ⟨k, v⟩ := d
      simp only [cellsWf, Bool.and_eq_true, bne_iff_ne] at hd
      have := h k
      simp only [cellsGet, if_true] at this
      exact absurd this.symm hd.1.2
  | cons c cs ih =>
    obtain ⟨k, v⟩ := c
    have hc0 := hc
    simp only [cellsWf, Bool.and_eq_true, decide_eq_true_eq, bne_iff_ne] at hc
    cases ds with
    | nil =>
      have := h k
      simp only [cellsGet, if_true] at this
      exact absurd this hc.1.2
    | cons d ds =>
      obtain ⟨k', v'⟩ := d
      have hd0 := hd
      simp only [cellsWf, Bool.and_eq_true, decide_eq_true_eq, bne_iff_ne] at hd
      have hk : k = k' := by
        rcases Nat.lt_trichotomy k k' with hlt | he | hlt
        · have h1 := h k
          have h2 : cellsGet ds k = 0 := low hd.2 (by omega)
          have h3 : k' ≠ k := by omega
          simp only [cellsGet, if_true, h3, if_false, h2] at h1
          exact absurd h1 hc.1.2
        · exact he
        · have h1 := h k'
          have h2 : cellsGet cs k' = 0 := low hc.2 (by omega)
          have h3 : k ≠ k' := by omega
          simp only [cellsGet, if_true, h3, if_false, h2] at h1
          exact absurd h1.symm hd.1.2
      subst hk
      have hv : v = v' := by simpa [cellsGet] using h k
      subst hv
      have : cs = ds := by
        refine ih hc.2 hd.2 fun a => ?_
        by_cases ha : k = a
        · rw [low hc.2 (by omega), low hd.2 (by omega)]
        · simpa [cellsGet, ha] using h a
      rw [this]

end Sys2Proof.Machine
end

