-- ==== Sys2Proof/Laws/Decode.lean ====
section
/-! SUPPORT. Fetching bytes that are known: from a list, from memory, and through ModRM, SIB and displacement; and fetching
a field that the end of memory cuts off. -/

namespace Sys2Proof

open Sys2Proof.Machine

/-- The fetch `f` finds the bytes `bs` from offset `off` on. -/
def AtBytes (f : Fetch) (off : Nat) (bs : List Byte) : Prop :=
  ∀ k n, k + n ≤ bs.length → f (off + k) n = some (leValue ((bs.drop k).take n))

theorem AtBytes.drop {f : Fetch} {off : Nat} {bs cs : List Byte} (h : AtBytes f off (bs ++ cs)) :
    AtBytes f (off + bs.length) cs := by
  intro k n hk
  have := h (bs.length + k) n (by simp; omega)
  rw [← Nat.add_assoc] at this
  rw [this]
  congr 2
  rw [← List.drop_drop, List.drop_left]

theorem AtBytes.tail {f : Fetch} {off : Nat} {b : Byte} {cs : List Byte} (h : AtBytes f off (b :: cs)) :
    AtBytes f (off + 1) cs := AtBytes.drop (bs := [b]) h

theorem AtBytes.field {f : Fetch} {off : Nat} {bs cs : List Byte} (h : AtBytes f off (bs ++ cs)) :
    f off bs.length = some (leValue bs) := by
  have := h 0 bs.length (by simp)
  simpa using this

theorem AtBytes.head {f : Fetch} {off : Nat} {b : Byte} {cs : List Byte} (h : AtBytes f off (b :: cs)) :
    f off 1 = some (b.setWidth 32) := by
  have := AtBytes.field (bs := [b]) h
  simpa [leValue] using this

theorem listFetch_atBytes (bs : List Byte) : AtBytes (listFetch bs) 0 bs := by
  intro k n hk
  simp only [listFetch, Nat.zero_add]
  rw [if_pos hk]

theorem Memory.bytes_drop_take (m : Memory) (a k n l : Nat) (h : k + n ≤ l) :
    ((m.bytes a l).drop k).take n = m.bytes (a + k) n := by
  induction k generalizing a l with
  | zero =>
    induction n generalizing a l with
    | zero => simp [Memory.bytes]
    | succ n ih =>
      obtain ⟨l, rfl⟩ : ∃ l', l = l' + 1 := ⟨l - 1, by omega⟩
      have := ih (a + 1) l (by omega)
      simpa [Memory.bytes] using this
  | succ k ih =>
    obtain ⟨l, rfl⟩ : ∃ l', l = l' + 1 := ⟨l - 1, by omega⟩
    have := ih (a + 1) l (by omega)
    have e : a + 1 + k = a + (k + 1) := by omega
    rw [e] at this
    simpa [Memory.bytes] using this

theorem memFetch_atBytes {m : Memory} {base : Word} {bs : List Byte} (h : HoldsBytes m base bs) :
    AtBytes (memFetch m base) 0 bs := by
  intro k n hk
  obtain ⟨h1, h2, h3⟩ := h
  by_cases hn : n = 0
  · subst hn
    have hk' : (base + BitVec.ofNat 32 (0 + k)).toNat ≤ m.capacity := by
      have : base.toNat < 2 ^ 32 := base.isLt
      simp only [BitVec.toNat_add, BitVec.toNat_ofNat, Nat.zero_add]
      omega
    simp only [memFetch, Memory.inBounds, Memory.bytes]
    simp [leValue] at hk' ⊢
    exact hk'
  · have e : (base + BitVec.ofNat 32 (0 + k)).toNat = base.toNat + k := by
      simp only [BitVec.toNat_add, BitVec.toNat_ofNat, Nat.zero_add]
      omega
    simp only [memFetch, e, Memory.inBounds]
    rw [if_pos (by simpa using by omega)]
    congr 2
    rw [← Memory.bytes_drop_take m base.toNat k n bs.length hk, h3]

theorem setWidth_byte (b : Byte) : (b.setWidth 32).setWidth 8 = b := by
  apply BitVec.eq_of_toNat_eq
  have := b.isLt
  simp

/-- Fetching a known byte (30_encoding.md R102). -/
theorem withByte_at {f : Fetch} {off : Nat} {b : Byte} {cs : List Byte} (h : AtBytes f off (b :: cs))
    (k : Byte → Decoded) : withByte f off k = k b := by
  simp only [withByte, h.head, setWidth_byte]

/-- Fetching a known field (30_encoding.md R102). -/
theorem withField_at {f : Fetch} {off n : Nat} {bs cs : List Byte} (h : AtBytes f off (bs ++ cs)) (hn : bs.length = n)
    (k : Word → Decoded) : withField f off n k = k (leValue bs) := by
  subst hn
  simp only [withField, h.field]

theorem packByte_hi (h : BitVec 2) (m l : BitVec 3) : (packByte h m l).extractLsb' 6 2 = h := by
  revert h m l; decide
theorem packByte_mid (h : BitVec 2) (m l : BitVec 3) : (packByte h m l).extractLsb' 3 3 = m := by
  revert h m l; decide
theorem packByte_lo (h : BitVec 2) (m l : BitVec 3) : (packByte h m l).extractLsb' 0 3 = l := by
  revert h m l; decide
theorem packByte_extract (b : Byte) : packByte (b.extractLsb' 6 2) (b.extractLsb' 3 3) (b.extractLsb' 0 3) = b := by
  revert b; decide

/-- `decode_modrm` reads back the operand that was encoded (41_addressing.md R181, R189). -/
theorem withModrm_at {f : Fetch} {m : DecodeMode} {off : Nat} {reg : RegIdx} {d : Rm} {cs : List Byte}
    (hd : d.wf m = true) (h : AtBytes f off (encodeRm reg d ++ cs)) (k : Byte → RegIdx → Rm → Nat → Decoded) :
    ∃ b, withModrm f m off k = k b reg d (off + (encodeRm reg d).length) := by
  have z1 : (1#2 : BitVec 2) ≠ 0#2 := by decide
  have z2 : (2#2 : BitVec 2) ≠ 0#2 := by decide
  have z3 : (2#2 : BitVec 2) ≠ 1#2 := by decide
  cases d with
  | reg r =>
    refine ⟨packByte 3 reg r, ?_⟩
    simp only [encodeRm, List.cons_append, List.nil_append] at h
    simp only [withModrm, withByte_at h, packByte_hi, packByte_mid, packByte_lo, encodeRm, List.length_cons, List.length_nil]
    rfl
  | mem o =>
    simp only [Rm.wf] at hd
    cases o with
    | base r =>
      simp only [MemOperand.wf, Bool.and_eq_true, bne_iff_ne, ne_eq] at hd
      refine ⟨packByte 0 reg r, ?_⟩
      simp only [encodeRm, encodeMem, List.cons_append, List.nil_append] at h
      simp [withModrm, withByte_at h, packByte_hi, packByte_mid, packByte_lo, encodeRm, encodeMem, hd]
    | disp32 v =>
      simp only [MemOperand.wf] at hd
      refine ⟨packByte 0 reg 5, ?_⟩
      simp only [encodeRm, encodeMem, List.cons_append] at h
      have h2 := withField_at (n := 4) h.tail (by simp)
      simp [withModrm, withByte_at h, packByte_hi, packByte_mid, packByte_lo, encodeRm, encodeMem, hd, h2, leValue_leBytes_four]
    | baseDisp8 r v =>
      simp only [MemOperand.wf, Bool.and_eq_true, bne_iff_ne, ne_eq] at hd
      refine ⟨packByte 1 reg r, ?_⟩
      simp only [encodeRm, encodeMem, List.cons_append, List.nil_append] at h
      have h2 := fun k => withByte_at h.tail k
      simp [withModrm, withByte_at h, packByte_hi, packByte_mid, packByte_lo, encodeRm, encodeMem, hd, h2]
    | baseDisp32 r v =>
      simp only [MemOperand.wf, Bool.and_eq_true, bne_iff_ne, ne_eq] at hd
      refine ⟨packByte 2 reg r, ?_⟩
      simp only [encodeRm, encodeMem, List.cons_append] at h
      have h2 := withField_at (n := 4) h.tail (by simp)
      simp [withModrm, withByte_at h, packByte_hi, packByte_mid, packByte_lo, encodeRm, encodeMem, hd, h2, leValue_leBytes_four]
    | sib sc ix bs =>
      simp only [MemOperand.wf] at hd
      refine ⟨packByte 0 reg 4, ?_⟩
      simp only [encodeRm, encodeMem, List.cons_append, List.nil_append] at h
      have h2 := fun k => withByte_at h.tail k
      simp [withModrm, withByte_at h, packByte_hi, packByte_mid, packByte_lo, encodeRm, encodeMem, hd, h2]
    | sibDisp8 sc ix bs v =>
      simp only [MemOperand.wf] at hd
      refine ⟨packByte 1 reg 4, ?_⟩
      simp only [encodeRm, encodeMem, List.cons_append, List.nil_append] at h
      have h2 := fun k => withByte_at h.tail k
      have h3 := fun k => withByte_at h.tail.tail k
      simp [withModrm, withByte_at h, packByte_hi, packByte_mid, packByte_lo, encodeRm, encodeMem, hd, h2, h3]
    | sibDisp32 sc ix bs v =>
      simp only [MemOperand.wf] at hd
      refine ⟨packByte 2 reg 4, ?_⟩
      simp only [encodeRm, encodeMem, List.cons_append] at h
      have h2 := fun k => withByte_at h.tail k
      have h3 := withField_at (n := 4) h.tail.tail (by simp)
      simp [withModrm, withByte_at h, packByte_hi, packByte_mid, packByte_lo, encodeRm, encodeMem, hd, h2, h3, leValue_leBytes_four]

/-! ## Fields that the end of memory cuts off -/

/-- Fetching a byte in memory (30_encoding.md R102). -/
theorem memFetch_one {m : Memory} {base : Word} {off : Nat}
    (h : (base + BitVec.ofNat 32 off).toNat < m.capacity) :
    memFetch m base off 1 = some ((m.byte (base + BitVec.ofNat 32 off).toNat).setWidth 32) := by
  dsimp only [memFetch]
  rw [if_pos (by simp only [Memory.inBounds, decide_eq_true_eq]; omega)]
  simp [Memory.bytes, leValue]

/-- Fetching a field that is not all in memory (30_encoding.md R102, 20_memory.md R61). -/
theorem memFetch_none {m : Memory} {base : Word} {off n : Nat}
    (h : m.capacity < (base + BitVec.ofNat 32 off).toNat + n) : memFetch m base off n = none := by
  dsimp only [memFetch]
  rw [if_neg (by simp only [Memory.inBounds, decide_eq_true_eq]; omega)]

theorem withByte_none {f : Fetch} {off : Nat} (h : f off 1 = none) (k : Byte → Decoded) :
    withByte f off k = .truncated off 1 := by simp only [withByte, h]

theorem withField_none {f : Fetch} {off n : Nat} (h : f off n = none) (k : Word → Decoded) :
    withField f off n k = .truncated off n := by simp only [withField, h]

theorem encodeMem_fields (reg : RegIdx) (o : MemOperand) : (encodeMem reg o).length = 1 + o.fieldWidths.sum := by
  cases o <;> simp [MemOperand.fieldWidths, encodeMem]

theorem encodeRm_fields (reg : RegIdx) (d : Rm) : (encodeRm reg d).length = d.fieldWidths.sum := by
  cases d <;> simp [Rm.fieldWidths, encodeRm, encodeMem_fields]

/-- The fields of an instruction make up its encoding (30_encoding.md R140). -/
theorem encode_fields (m : DecodeMode) (i : Instr) : (encode m i).length = (i.fieldWidths m).sum := by
  cases i <;> simp [encode, encodeIv, Instr.fieldWidths, encodeRm_fields, encodeMem_fields] <;> omega

/-- Where the fields before one are in memory and it is not, `decode_modrm` reports that one, whatever its caller would go
on to do (41_addressing.md R181, 60_exceptions.md R507). -/
theorem withModrm_cut {f : Fetch} {m : DecodeMode} {off w : Nat} {reg : RegIdx} {d : Rm} {before after : List Nat}
    (hd : d.wf m = true) (hw : d.fieldWidths = before ++ w :: after)
    (h : AtBytes f off ((encodeRm reg d).take before.sum)) (hn : f (off + before.sum) w = none)
    (k : Byte → RegIdx → Rm → Nat → Decoded) : withModrm f m off k = .truncated (off + before.sum) w := by
  have z1 : (1#2 : BitVec 2) ≠ 0#2 := by decide
  have z2 : (2#2 : BitVec 2) ≠ 0#2 := by decide
  have z3 : (2#2 : BitVec 2) ≠ 1#2 := by decide
  cases before with
  | nil =>
    obtain rfl : w = 1 := by cases d <;> simp [Rm.fieldWidths] at hw <;> simp [hw]
    exact withByte_none hn _
  | cons x before =>
    cases d with
    | reg r => simp [Rm.fieldWidths] at hw
    | mem o =>
      simp only [Rm.fieldWidths, List.cons_append, List.cons.injEq] at hw
      obtain ⟨rfl, hw⟩ := hw
      simp only [Rm.wf] at hd
      simp only [List.sum_cons] at hn ⊢
      simp only [List.sum_cons, Nat.add_comm 1] at h
      cases before with
      | nil =>
        cases o <;> simp only [MemOperand.fieldWidths, List.nil_append, List.cons.injEq, reduceCtorEq] at hw <;>
          obtain ⟨rfl, -⟩ := hw <;>
          simp only [MemOperand.wf, Bool.and_eq_true, bne_iff_ne, ne_eq] at hd <;>
          simp only [encodeRm, encodeMem, List.take_succ_cons] at h <;>
          simp [withModrm, withByte_at h, packByte_hi, packByte_mid, packByte_lo, hd] at hn ⊢ <;>
          simp [withByte_none, withField_none, hn]
      | cons y before =>
        obtain rfl : before = [] := by
          cases before <;> cases o <;> simp [MemOperand.fieldWidths] at hw <;> rfl
        cases o <;> simp only [MemOperand.fieldWidths, List.cons_append, List.nil_append, List.cons.injEq, reduceCtorEq,
            and_false] at hw <;>
          obtain ⟨rfl, rfl, -⟩ := hw <;>
          simp only [MemOperand.wf] at hd <;>
          simp only [encodeRm, encodeMem, List.sum_cons, List.sum_nil, List.take_succ_cons] at h <;>
          have h2 := fun k => withByte_at h.tail k <;>
          simp [withModrm, withByte_at h, packByte_hi, packByte_mid, packByte_lo, hd, h2] at hn ⊢ <;>
          simp [withByte_none, withField_none, hn]

end Sys2Proof
end

