-- ==== Sys2Proof/Laws/State.lean ====
section
/-! SUPPORT. One lemma per field per update of the state, each true by unfolding. -/

namespace Sys2Proof.Machine

open Sys2Proof

@[simp] theorem State.setReg_regs (s : State) (i : RegIdx) (v : Word) : (s.setReg i v).regs = s.regs.set i.toNat v := rfl
@[simp] theorem State.setReg_flags (s : State) (i : RegIdx) (v : Word) : (s.setReg i v).flags = s.flags := rfl
@[simp] theorem State.setReg_ip (s : State) (i : RegIdx) (v : Word) : (s.setReg i v).ip = s.ip := rfl
@[simp] theorem State.setReg_pfx (s : State) (i : RegIdx) (v : Word) : (s.setReg i v).pfx = s.pfx := rfl
@[simp] theorem State.setReg_mem (s : State) (i : RegIdx) (v : Word) : (s.setReg i v).mem = s.mem := rfl
@[simp] theorem State.setReg_ipStart (s : State) (i : RegIdx) (v : Word) : (s.setReg i v).ipStart = s.ipStart := rfl
@[simp] theorem State.setReg_notice (s : State) (i : RegIdx) (v : Word) : (s.setReg i v).notice = s.notice := rfl
@[simp] theorem State.setReg_hostCalls (s : State) (i : RegIdx) (v : Word) : (s.setReg i v).hostCalls = s.hostCalls := rfl
@[simp] theorem State.setReg_freeCount (s : State) (i : RegIdx) (v : Word) : (s.setReg i v).freeCount = s.freeCount := rfl

@[simp] theorem State.setFlags_regs (s : State) (f : Flags) : (s.setFlags f).regs = s.regs := rfl
@[simp] theorem State.setFlags_flags (s : State) (f : Flags) : (s.setFlags f).flags = f := rfl
@[simp] theorem State.setFlags_ip (s : State) (f : Flags) : (s.setFlags f).ip = s.ip := rfl
@[simp] theorem State.setFlags_pfx (s : State) (f : Flags) : (s.setFlags f).pfx = s.pfx := rfl
@[simp] theorem State.setFlags_mem (s : State) (f : Flags) : (s.setFlags f).mem = s.mem := rfl
@[simp] theorem State.setFlags_ipStart (s : State) (f : Flags) : (s.setFlags f).ipStart = s.ipStart := rfl
@[simp] theorem State.setFlags_notice (s : State) (f : Flags) : (s.setFlags f).notice = s.notice := rfl
@[simp] theorem State.setFlags_hostCalls (s : State) (f : Flags) : (s.setFlags f).hostCalls = s.hostCalls := rfl
@[simp] theorem State.setFlags_freeCount (s : State) (f : Flags) : (s.setFlags f).freeCount = s.freeCount := rfl
@[simp] theorem State.setFlags_reg (s : State) (f : Flags) (j : RegIdx) : (s.setFlags f).reg j = s.reg j := rfl

@[simp] theorem State.setIp_regs (s : State) (v : Word) : (s.setIp v).regs = s.regs := rfl
@[simp] theorem State.setIp_flags (s : State) (v : Word) : (s.setIp v).flags = s.flags := rfl
@[simp] theorem State.setIp_ip (s : State) (v : Word) : (s.setIp v).ip = v := rfl
@[simp] theorem State.setIp_pfx (s : State) (v : Word) : (s.setIp v).pfx = s.pfx := rfl
@[simp] theorem State.setIp_mem (s : State) (v : Word) : (s.setIp v).mem = s.mem := rfl
@[simp] theorem State.setIp_ipStart (s : State) (v : Word) : (s.setIp v).ipStart = s.ipStart := rfl
@[simp] theorem State.setIp_notice (s : State) (v : Word) : (s.setIp v).notice = s.notice := rfl
@[simp] theorem State.setIp_hostCalls (s : State) (v : Word) : (s.setIp v).hostCalls = s.hostCalls := rfl
@[simp] theorem State.setIp_freeCount (s : State) (v : Word) : (s.setIp v).freeCount = s.freeCount := rfl
@[simp] theorem State.setIp_reg (s : State) (v : Word) (j : RegIdx) : (s.setIp v).reg j = s.reg j := rfl

@[simp] theorem State.setMem_regs (s : State) (m : Memory) : (s.setMem m).regs = s.regs := rfl
@[simp] theorem State.setMem_flags (s : State) (m : Memory) : (s.setMem m).flags = s.flags := rfl
@[simp] theorem State.setMem_ip (s : State) (m : Memory) : (s.setMem m).ip = s.ip := rfl
@[simp] theorem State.setMem_pfx (s : State) (m : Memory) : (s.setMem m).pfx = s.pfx := rfl
@[simp] theorem State.setMem_mem (s : State) (m : Memory) : (s.setMem m).mem = m := rfl
@[simp] theorem State.setMem_ipStart (s : State) (m : Memory) : (s.setMem m).ipStart = s.ipStart := rfl
@[simp] theorem State.setMem_notice (s : State) (m : Memory) : (s.setMem m).notice = s.notice := rfl
@[simp] theorem State.setMem_hostCalls (s : State) (m : Memory) : (s.setMem m).hostCalls = s.hostCalls := rfl
@[simp] theorem State.setMem_freeCount (s : State) (m : Memory) : (s.setMem m).freeCount = s.freeCount := rfl
@[simp] theorem State.setMem_reg (s : State) (m : Memory) (j : RegIdx) : (s.setMem m).reg j = s.reg j := rfl

@[simp] theorem State.setPfx_regs (s : State) (p : PrefixState) : (s.setPfx p).regs = s.regs := rfl
@[simp] theorem State.setPfx_flags (s : State) (p : PrefixState) : (s.setPfx p).flags = s.flags := rfl
@[simp] theorem State.setPfx_ip (s : State) (p : PrefixState) : (s.setPfx p).ip = s.ip := rfl
@[simp] theorem State.setPfx_pfx (s : State) (p : PrefixState) : (s.setPfx p).pfx = p := rfl
@[simp] theorem State.setPfx_mem (s : State) (p : PrefixState) : (s.setPfx p).mem = s.mem := rfl
@[simp] theorem State.setPfx_ipStart (s : State) (p : PrefixState) : (s.setPfx p).ipStart = s.ipStart := rfl
@[simp] theorem State.setPfx_notice (s : State) (p : PrefixState) : (s.setPfx p).notice = s.notice := rfl
@[simp] theorem State.setPfx_hostCalls (s : State) (p : PrefixState) : (s.setPfx p).hostCalls = s.hostCalls := rfl
@[simp] theorem State.setPfx_freeCount (s : State) (p : PrefixState) : (s.setPfx p).freeCount = s.freeCount := rfl
@[simp] theorem State.setPfx_reg (s : State) (p : PrefixState) (j : RegIdx) : (s.setPfx p).reg j = s.reg j := rfl

@[simp] theorem State.setNotice_regs (s : State) (n : Option Notice) : (s.setNotice n).regs = s.regs := rfl
@[simp] theorem State.setNotice_flags (s : State) (n : Option Notice) : (s.setNotice n).flags = s.flags := rfl
@[simp] theorem State.setNotice_ip (s : State) (n : Option Notice) : (s.setNotice n).ip = s.ip := rfl
@[simp] theorem State.setNotice_pfx (s : State) (n : Option Notice) : (s.setNotice n).pfx = s.pfx := rfl
@[simp] theorem State.setNotice_mem (s : State) (n : Option Notice) : (s.setNotice n).mem = s.mem := rfl
@[simp] theorem State.setNotice_ipStart (s : State) (n : Option Notice) : (s.setNotice n).ipStart = s.ipStart := rfl
@[simp] theorem State.setNotice_notice (s : State) (n : Option Notice) : (s.setNotice n).notice = n := rfl
@[simp] theorem State.setNotice_hostCalls (s : State) (n : Option Notice) : (s.setNotice n).hostCalls = s.hostCalls := rfl
@[simp] theorem State.setNotice_freeCount (s : State) (n : Option Notice) : (s.setNotice n).freeCount = s.freeCount := rfl
@[simp] theorem State.setNotice_reg (s : State) (n : Option Notice) (j : RegIdx) : (s.setNotice n).reg j = s.reg j := rfl

@[simp] theorem State.setIpStart_regs (s : State) (v : Word) : (s.setIpStart v).regs = s.regs := rfl
@[simp] theorem State.setIpStart_flags (s : State) (v : Word) : (s.setIpStart v).flags = s.flags := rfl
@[simp] theorem State.setIpStart_ip (s : State) (v : Word) : (s.setIpStart v).ip = s.ip := rfl
@[simp] theorem State.setIpStart_pfx (s : State) (v : Word) : (s.setIpStart v).pfx = s.pfx := rfl
@[simp] theorem State.setIpStart_mem (s : State) (v : Word) : (s.setIpStart v).mem = s.mem := rfl
@[simp] theorem State.setIpStart_ipStart (s : State) (v : Word) : (s.setIpStart v).ipStart = v := rfl
@[simp] theorem State.setIpStart_notice (s : State) (v : Word) : (s.setIpStart v).notice = s.notice := rfl
@[simp] theorem State.setIpStart_hostCalls (s : State) (v : Word) : (s.setIpStart v).hostCalls = s.hostCalls := rfl
@[simp] theorem State.setIpStart_freeCount (s : State) (v : Word) : (s.setIpStart v).freeCount = s.freeCount := rfl
@[simp] theorem State.setIpStart_reg (s : State) (v : Word) (j : RegIdx) : (s.setIpStart v).reg j = s.reg j := rfl

@[simp] theorem State.logCall_regs (s : State) (c : HostCall) : (s.logCall c).regs = s.regs := rfl
@[simp] theorem State.logCall_flags (s : State) (c : HostCall) : (s.logCall c).flags = s.flags := rfl
@[simp] theorem State.logCall_ip (s : State) (c : HostCall) : (s.logCall c).ip = s.ip := rfl
@[simp] theorem State.logCall_pfx (s : State) (c : HostCall) : (s.logCall c).pfx = s.pfx := rfl
@[simp] theorem State.logCall_mem (s : State) (c : HostCall) : (s.logCall c).mem = s.mem := rfl
@[simp] theorem State.logCall_ipStart (s : State) (c : HostCall) : (s.logCall c).ipStart = s.ipStart := rfl
@[simp] theorem State.logCall_notice (s : State) (c : HostCall) : (s.logCall c).notice = s.notice := rfl
@[simp] theorem State.logCall_hostCalls (s : State) (c : HostCall) : (s.logCall c).hostCalls = s.hostCalls ++ [c] := rfl
@[simp] theorem State.logCall_freeCount (s : State) (c : HostCall) : (s.logCall c).freeCount = s.freeCount := rfl
@[simp] theorem State.logCall_reg (s : State) (c : HostCall) (j : RegIdx) : (s.logCall c).reg j = s.reg j := rfl

@[simp] theorem State.drawn_regs (s : State) (n : Nat) : (s.drawn n).regs = s.regs := rfl
@[simp] theorem State.drawn_flags (s : State) (n : Nat) : (s.drawn n).flags = s.flags := rfl
@[simp] theorem State.drawn_ip (s : State) (n : Nat) : (s.drawn n).ip = s.ip := rfl
@[simp] theorem State.drawn_pfx (s : State) (n : Nat) : (s.drawn n).pfx = s.pfx := rfl
@[simp] theorem State.drawn_mem (s : State) (n : Nat) : (s.drawn n).mem = s.mem := rfl
@[simp] theorem State.drawn_ipStart (s : State) (n : Nat) : (s.drawn n).ipStart = s.ipStart := rfl
@[simp] theorem State.drawn_notice (s : State) (n : Nat) : (s.drawn n).notice = s.notice := rfl
@[simp] theorem State.drawn_hostCalls (s : State) (n : Nat) : (s.drawn n).hostCalls = s.hostCalls := rfl
@[simp] theorem State.drawn_freeCount (s : State) (n : Nat) : (s.drawn n).freeCount = s.freeCount + n := rfl
@[simp] theorem State.drawn_reg (s : State) (n : Nat) (j : RegIdx) : (s.drawn n).reg j = s.reg j := rfl

/-- A register just written reads as what was written (10_state.md R21). -/
@[simp] theorem State.setReg_reg_same (s : State) (i : RegIdx) (v : Word) : (s.setReg i v).reg i = v := by
  simp [State.reg, State.setReg]

/-- Writing a register leaves every other one (10_state.md R21). -/
theorem State.setReg_reg_ne (s : State) {i j : RegIdx} (v : Word) (h : j ≠ i) : (s.setReg i v).reg j = s.reg j := by
  have h' : i.toNat ≠ j.toNat := fun e => h (BitVec.eq_of_toNat_eq e.symm)
  simp [State.reg, State.setReg, h']

theorem State.setReg_reg (s : State) (i j : RegIdx) (v : Word) :
    (s.setReg i v).reg j = if j = i then v else s.reg j := by
  by_cases h : j = i
  · subst h; simp
  · simp [h, State.setReg_reg_ne]

/-- Two register files with the same eight registers are equal. -/
theorem State.regs_ext {s t : State} (h : ∀ i, s.reg i = t.reg i) : s.regs = t.regs := by
  apply Vector.ext
  intro k hk
  have := h (BitVec.ofNat 3 k)
  have e : (BitVec.ofNat 3 k).toNat = k := by simp; omega
  simpa [State.reg, e] using this

@[simp] theorem PrefixState.tail_repz (p : PrefixState) : p.tail.repz = p.repz := rfl
@[simp] theorem PrefixState.tail_repnz (p : PrefixState) : p.tail.repnz = p.repnz := rfl
@[simp] theorem PrefixState.tail_os32 (p : PrefixState) : p.tail.os32 = true := rfl
@[simp] theorem PrefixState.tail_as32 (p : PrefixState) : p.tail.as32 = true := rfl
@[simp] theorem PrefixState.tail_opovr (p : PrefixState) : p.tail.opovr = false := rfl

end Sys2Proof.Machine
end

