-- ==== Sys2Proof/Laws/Ops.lean ====
section
/-! SUPPORT. What each shared operation can do, said once: registers, loads and stores, the stack, operands, host calls. -/

namespace Sys2Proof.Machine

open Sys2Proof

/-! ## Going on after an outcome -/

@[simp] theorem chain_next {α β : Type} (a : α) (k : α → Out β) : chain (.next a) k = k a := rfl
@[simp] theorem chain_fault {α β : Type} (r : Fault) (k : α → Out β) : chain (.fault r) k = .fault r := rfl
@[simp] theorem chain_refused {α β : Type} (r : Refusal) (k : α → Out β) : chain (.refused r) k = .refused r := rfl

/-- A chain that answers a next state did so at both of its parts. -/
theorem chain_eq_next {α β : Type} {o : Out α} {k : α → Out β} {b : β} (h : chain o k = .next b) :
    ∃ a, o = .next a ∧ k a = .next b := by
  cases o with
  | next a => exact ⟨a, rfl, h⟩
  | fault r => simp at h
  | refused r => simp at h

/-- A chain that faults did so at one of its parts. -/
theorem chain_eq_fault {α β : Type} {o : Out α} {k : α → Out β} {r : Fault} (h : chain o k = .fault r) :
    o = .fault r ∨ ∃ a, o = .next a ∧ k a = .fault r := by
  cases o with
  | next a => exact .inr ⟨a, rfl, h⟩
  | fault r' => left; simpa using h
  | refused r => simp at h

/-! ## Registers -/

/-- Reading a view just written gives the value written (10_state.md R26). -/
@[simp] theorem readReg_writeReg_same (w : Width) (i : RegIdx) (v : BitVec w.bits) (s : State) :
    readReg w i (writeReg w i v s) = v := by
  cases w with
  | w32 => simp [readReg, writeReg]
  | w16 =>
    simp only [readReg, writeReg, State.setReg_reg_same]
    apply BitVec.eq_of_getLsbD_eq
    intro k hk
    simp only [BitVec.getLsbD_extractLsb', Nat.zero_add, BitVec.getLsbD_append]
    simp [hk]
  | w8 =>
    simp only [readReg, writeReg]
    split
    · rename_i h
      have e : byteOwner i = i := by simp [byteOwner, h]
      rw [e]
      simp only [State.setReg_reg_same]
      apply BitVec.eq_of_getLsbD_eq
      intro k hk
      simp only [BitVec.getLsbD_extractLsb', Nat.zero_add, BitVec.getLsbD_append]
      simp [hk]
    · simp only [State.setReg_reg_same]
      apply BitVec.eq_of_getLsbD_eq
      intro k hk
      have h1 : ¬ (8 + k < 8) := by omega
      have h2 : 8 + k - 8 = k := by omega
      simp only [BitVec.getLsbD_extractLsb', BitVec.getLsbD_append, h1, h2, hk, decide_true, Bool.true_and, if_false, if_true]

/-- A register write changes the register file only. -/
theorem writeReg_eq (w : Width) (i : RegIdx) (v : BitVec w.bits) (s : State) :
    ∃ u, writeReg w i v s = s.setReg (regOwner w i) u := by
  cases w with
  | w32 => exact ⟨_, rfl⟩
  | w16 => exact ⟨_, rfl⟩
  | w8 =>
    simp only [writeReg, regOwner]
    split
    · exact ⟨_, rfl⟩
    · exact ⟨_, rfl⟩

@[simp] theorem writeReg_flags (w : Width) (i : RegIdx) (v : BitVec w.bits) (s : State) : (writeReg w i v s).flags = s.flags := by
  obtain ⟨u, hu⟩ := writeReg_eq w i v s; rw [hu]; rfl
@[simp] theorem writeReg_ip (w : Width) (i : RegIdx) (v : BitVec w.bits) (s : State) : (writeReg w i v s).ip = s.ip := by
  obtain ⟨u, hu⟩ := writeReg_eq w i v s; rw [hu]; rfl
@[simp] theorem writeReg_pfx (w : Width) (i : RegIdx) (v : BitVec w.bits) (s : State) : (writeReg w i v s).pfx = s.pfx := by
  obtain ⟨u, hu⟩ := writeReg_eq w i v s; rw [hu]; rfl
@[simp] theorem writeReg_mem (w : Width) (i : RegIdx) (v : BitVec w.bits) (s : State) : (writeReg w i v s).mem = s.mem := by
  obtain ⟨u, hu⟩ := writeReg_eq w i v s; rw [hu]; rfl
@[simp] theorem writeReg_ipStart (w : Width) (i : RegIdx) (v : BitVec w.bits) (s : State) :
    (writeReg w i v s).ipStart = s.ipStart := by obtain ⟨u, hu⟩ := writeReg_eq w i v s; rw [hu]; rfl
@[simp] theorem writeReg_notice (w : Width) (i : RegIdx) (v : BitVec w.bits) (s : State) :
    (writeReg w i v s).notice = s.notice := by obtain ⟨u, hu⟩ := writeReg_eq w i v s; rw [hu]; rfl
@[simp] theorem writeReg_hostCalls (w : Width) (i : RegIdx) (v : BitVec w.bits) (s : State) :
    (writeReg w i v s).hostCalls = s.hostCalls := by obtain ⟨u, hu⟩ := writeReg_eq w i v s; rw [hu]; rfl
@[simp] theorem writeReg_freeCount (w : Width) (i : RegIdx) (v : BitVec w.bits) (s : State) :
    (writeReg w i v s).freeCount = s.freeCount := by obtain ⟨u, hu⟩ := writeReg_eq w i v s; rw [hu]; rfl
@[simp] theorem writeReg_osz (w : Width) (i : RegIdx) (v : BitVec w.bits) (s : State) :
    (writeReg w i v s).osz = s.osz := by simp [State.osz]

/-- A register write leaves every register but the owner of the view. -/
theorem writeReg_reg_ne (w : Width) {i j : RegIdx} (v : BitVec w.bits) (s : State) (h : j ≠ regOwner w i) :
    (writeReg w i v s).reg j = s.reg j := by
  obtain ⟨u, hu⟩ := writeReg_eq w i v s
  rw [hu, State.setReg_reg_ne _ _ h]

/-- What a register write does, whole (10_state.md R23 to R26). -/
theorem writeReg_written (w : Width) (i : RegIdx) (v : BitVec w.bits) (s : State) :
    RegWritten w i v s (writeReg w i v s) := by
  refine ⟨readReg_writeReg_same .., fun j h => writeReg_reg_ne _ _ _ h, fun k hk => ?_⟩
  by_cases hk32 : k < 32
  swap
  · rw [BitVec.getLsbD_of_ge _ _ (by omega), BitVec.getLsbD_of_ge _ _ (by omega)]
  cases w with
  | w32 => exact absurd ⟨Nat.zero_le _, by simpa [viewLow] using hk32⟩ hk
  | w16 =>
    simp only [inView, viewLow, Nat.zero_le, true_and, Nat.zero_add] at hk
    simp only [writeReg, regOwner, State.setReg_reg_same, BitVec.getLsbD_append, BitVec.getLsbD_extractLsb']
    have h1 : ¬ (k < 16) := hk
    have h2 : k - 16 < 16 := by omega
    have h3 : 16 + (k - 16) = k := by omega
    simp [h1, h2, h3]
  | w8 =>
    simp only [inView, viewLow] at hk
    simp only [writeReg, regOwner]
    split at hk
    · rename_i hi
      simp only [Nat.zero_le, true_and, Nat.zero_add] at hk
      rw [if_pos hi]
      simp only [State.setReg_reg_same, BitVec.getLsbD_append, BitVec.getLsbD_extractLsb']
      have h1 : ¬ (k < 8) := hk
      have h2 : k - 8 < 24 := by omega
      have h3 : 8 + (k - 8) = k := by omega
      simp [h1, h2, h3]
    · rename_i hi
      rw [if_neg hi]
      simp only [State.setReg_reg_same, BitVec.getLsbD_append, BitVec.getLsbD_extractLsb']
      by_cases h1 : k < 8
      · simp [h1]
      · have h2 : 16 ≤ k := by
          by_contra hc
          exact hk ⟨by omega, by simp only [Width.bits]; omega⟩
        have h3 : ¬ (k - 8 < 8) := by omega
        have h4 : k - 8 - 8 < 16 := by omega
        have h5 : 16 + (k - 8 - 8) = k := by omega
        simp [h1, h3, h4, h5]

/-! ## Loads and stores -/

/-- A load answers the bytes at the address, and only inside memory (20_memory.md R61, R62). -/
theorem load_eq_next {w : Width} {a : Word} {s : State} {v : BitVec w.bits} :
    load w a s = .next v ↔ a.toNat + w.bytes ≤ s.mem.capacity ∧ v = s.mem.read a.toNat w := by
  unfold load
  split <;> rename_i h <;> simp [Memory.inBounds] at h
  · simp [h, eq_comm]
  · simp [raiseOutOfBounds, Nat.not_le.2 h]

theorem load_of_inBounds {w : Width} {a : Word} {s : State} (h : a.toNat + w.bytes ≤ s.mem.capacity) :
    load w a s = .next (s.mem.read a.toNat w) := load_eq_next.2 ⟨h, rfl⟩

theorem load_of_outOfBounds {w : Width} {a : Word} {s : State} (h : s.mem.capacity < a.toNat + w.bytes) :
    load w a s = .fault (.outOfBoundsMemoryAccess s.ipStart a w.bytes .read) := by
  simp [load, Memory.inBounds, Nat.not_le.2 h, raiseOutOfBounds]

theorem load_ne_refused {w : Width} {a : Word} {s : State} {r : Refusal} : load w a s ≠ .refused r := by
  unfold load raiseOutOfBounds; split <;> simp

/-- A store answers the state with its bytes written, and only inside memory (20_memory.md R61, R63). -/
theorem store_eq_next {w : Width} {a : Word} {v : BitVec w.bits} {s t : State} :
    store w a v s = .next t ↔ a.toNat + w.bytes ≤ s.mem.capacity ∧ t = s.setMem (s.mem.write a.toNat w v) := by
  unfold store
  split <;> rename_i h <;> simp [Memory.inBounds] at h
  · simp [h, eq_comm]
  · simp [raiseOutOfBounds, Nat.not_le.2 h]

theorem store_of_inBounds {w : Width} {a : Word} {v : BitVec w.bits} {s : State}
    (h : a.toNat + w.bytes ≤ s.mem.capacity) : store w a v s = .next (s.setMem (s.mem.write a.toNat w v)) :=
  store_eq_next.2 ⟨h, rfl⟩

theorem store_of_outOfBounds {w : Width} {a : Word} {v : BitVec w.bits} {s : State}
    (h : s.mem.capacity < a.toNat + w.bytes) :
    store w a v s = .fault (.outOfBoundsMemoryAccess s.ipStart a w.bytes .write) := by
  simp [store, Memory.inBounds, Nat.not_le.2 h, raiseOutOfBounds]

/-- What a completed push has done (20_memory.md R70). -/
theorem push_eq_next {w : Width} {v : BitVec w.bits} {s t : State} :
    push w v s = .next t ↔
      (s.reg esp - BitVec.ofNat 32 w.bytes).toNat + w.bytes ≤ s.mem.capacity ∧
        t = (s.setReg esp (s.reg esp - BitVec.ofNat 32 w.bytes)).setMem
          (s.mem.write (s.reg esp - BitVec.ofNat 32 w.bytes).toNat w v) := by
  unfold push
  simp only [store_eq_next, State.setReg_reg_same, State.setReg_mem]

/-- What a completed pop has done (20_memory.md R71). -/
theorem pop_eq_next {w : Width} {s : State} {p : BitVec w.bits × State} :
    pop w s = .next p ↔
      (s.reg esp).toNat + w.bytes ≤ s.mem.capacity ∧
        p = (s.mem.read (s.reg esp).toNat w, s.setReg esp (s.reg esp + BitVec.ofNat 32 w.bytes)) := by
  unfold pop
  constructor
  · intro h
    obtain ⟨v, hv, hp⟩ := chain_eq_next h
    obtain ⟨h1, rfl⟩ := load_eq_next.1 hv
    exact ⟨h1, by simpa using hp.symm⟩
  · rintro ⟨h1, rfl⟩
    rw [load_of_inBounds h1, chain_next]

/-! ## Operands -/

/-- An accessible operand is read without a stop (41_addressing.md R190). -/
theorem rmRead_of_accessible {w : Width} {d : Rm} {s : State} (h : Accessible w d s) :
    rmRead w d s = .next (operand w d s) := by
  cases d with
  | reg r => rfl
  | mem o => simp only [rmRead, addressed, h.1, if_true]; exact load_of_inBounds h.2

/-- A read that completes was of an accessible operand (41_addressing.md R190). -/
theorem rmRead_eq_next {w : Width} {d : Rm} {s : State} {v : BitVec w.bits} :
    rmRead w d s = .next v ↔ Accessible w d s ∧ v = operand w d s := by
  constructor
  · intro h
    cases d with
    | reg r => exact ⟨trivial, by simpa [rmRead, operand, eq_comm] using h⟩
    | mem o =>
      simp only [rmRead, addressed] at h
      split at h
      · rename_i ha
        obtain ⟨h1, h2⟩ := load_eq_next.1 h
        exact ⟨⟨ha, h1⟩, h2⟩
      · simp at h
  · rintro ⟨h, rfl⟩
    exact rmRead_of_accessible h

/-- The state after an accessible operand has been written (41_addressing.md R191). -/
def rmWritten (w : Width) (d : Rm) (v : BitVec w.bits) (s : State) : State :=
  match d with
  | .reg r => writeReg w r v s
  | .mem o => s.setMem (s.mem.write (ea o s).toNat w v)

/-- An accessible operand is written without a stop (41_addressing.md R191). -/
theorem rmWrite_of_accessible {w : Width} {d : Rm} {s : State} (v : BitVec w.bits) (h : Accessible w d s) :
    rmWrite w d v s = .next (rmWritten w d v s) := by
  cases d with
  | reg r => rfl
  | mem o => simp only [rmWrite, addressed, h.1, if_true]; exact store_of_inBounds h.2

/-- A write that completes was of an accessible operand (41_addressing.md R191). -/
theorem rmWrite_eq_next {w : Width} {d : Rm} {v : BitVec w.bits} {s t : State} :
    rmWrite w d v s = .next t ↔ Accessible w d s ∧ t = rmWritten w d v s := by
  constructor
  · intro h
    cases d with
    | reg r => exact ⟨trivial, by simpa [rmWrite, rmWritten, eq_comm] using h⟩
    | mem o =>
      simp only [rmWrite, addressed] at h
      split at h
      · rename_i ha
        obtain ⟨h1, h2⟩ := store_eq_next.1 h
        exact ⟨⟨ha, h1⟩, h2⟩
      · simp at h
  · rintro ⟨h, rfl⟩
    exact rmWrite_of_accessible v h

@[simp] theorem rmWritten_flags (w : Width) (d : Rm) (v : BitVec w.bits) (s : State) : (rmWritten w d v s).flags = s.flags := by
  cases d <;> simp [rmWritten]
@[simp] theorem rmWritten_ip (w : Width) (d : Rm) (v : BitVec w.bits) (s : State) : (rmWritten w d v s).ip = s.ip := by
  cases d <;> simp [rmWritten]
@[simp] theorem rmWritten_pfx (w : Width) (d : Rm) (v : BitVec w.bits) (s : State) : (rmWritten w d v s).pfx = s.pfx := by
  cases d <;> simp [rmWritten]
@[simp] theorem rmWritten_capacity (w : Width) (d : Rm) (v : BitVec w.bits) (s : State) :
    (rmWritten w d v s).mem.capacity = s.mem.capacity := by cases d <;> simp [rmWritten]
@[simp] theorem rmWritten_ipStart (w : Width) (d : Rm) (v : BitVec w.bits) (s : State) :
    (rmWritten w d v s).ipStart = s.ipStart := by cases d <;> simp [rmWritten]
@[simp] theorem rmWritten_notice (w : Width) (d : Rm) (v : BitVec w.bits) (s : State) :
    (rmWritten w d v s).notice = s.notice := by cases d <;> simp [rmWritten]
@[simp] theorem rmWritten_hostCalls (w : Width) (d : Rm) (v : BitVec w.bits) (s : State) :
    (rmWritten w d v s).hostCalls = s.hostCalls := by cases d <;> simp [rmWritten]
@[simp] theorem rmWritten_freeCount (w : Width) (d : Rm) (v : BitVec w.bits) (s : State) :
    (rmWritten w d v s).freeCount = s.freeCount := by cases d <;> simp [rmWritten]

/-- What writing an operand does to registers and memory, whole (41_addressing.md R191). -/
theorem rmWritten_written (w : Width) (d : Rm) (v : BitVec w.bits) (s : State) : Written w d v s (rmWritten w d v s) := by
  cases d with
  | reg r => exact ⟨writeReg_written .., fun b => by simp [rmWritten]⟩
  | mem o =>
    exact ⟨by simp [rmWritten], fun b hb => Memory.write_byte_outside _ _ _ hb, fun i => by simp [rmWritten]⟩

/-- Writing an accessible operand keeps the canonical form of memory. -/
theorem rmWritten_wf {w : Width} {d : Rm} {v : BitVec w.bits} {s : State} (h : Accessible w d s)
    (hm : s.mem.wf = true) : (rmWritten w d v s).mem.wf = true := by
  cases d with
  | reg r => simpa [rmWritten] using hm
  | mem o => exact Memory.write_wf hm w v (by simpa [Memory.inBounds] using h.2)

/-- `Written` looks at registers and memory only, so setting the flags afterwards does not matter. -/
theorem Written.setFlags {w : Width} {d : Rm} {v : BitVec w.bits} {s t : State} (h : Written w d v s t) (f : Flags) :
    Written w d v s (t.setFlags f) := by
  cases d with
  | reg r => cases w <;> exact h
  | mem o => exact h

/-! ## Host calls -/

@[simp] theorem applyReply_ip (s : State) (r : HostReply) : (s.applyReply r).ip = s.ip := rfl
@[simp] theorem applyReply_pfx (s : State) (r : HostReply) : (s.applyReply r).pfx = s.pfx := rfl
@[simp] theorem applyReply_ipStart (s : State) (r : HostReply) : (s.applyReply r).ipStart = s.ipStart := rfl
@[simp] theorem applyReply_notice (s : State) (r : HostReply) : (s.applyReply r).notice = s.notice := rfl
@[simp] theorem applyReply_hostCalls (s : State) (r : HostReply) : (s.applyReply r).hostCalls = s.hostCalls := rfl
@[simp] theorem applyReply_freeCount (s : State) (r : HostReply) : (s.applyReply r).freeCount = s.freeCount := rfl
@[simp] theorem applyReply_mem (s : State) (r : HostReply) : (s.applyReply r).mem = s.mem.hostWrites r.writes := rfl
@[simp] theorem applyReply_flags (s : State) (r : HostReply) : (s.applyReply r).flags = Flags.ofWord r.flags := rfl
@[simp] theorem applyReply_regs (s : State) (r : HostReply) : (s.applyReply r).regs = r.regs := rfl

end Sys2Proof.Machine
end

