-- ==== Sys2Proof/Laws/PerInstr.lean ====
section
/-! SUPPORT. One lemma per constructor: the length of its encoding, without prefixes, is from 1 to 11 bytes
(30_encoding.md R140). -/

namespace Sys2Proof.Laws

open Sys2Proof Sys2Proof.Machine

/-- A memory operand takes 1 to 6 bytes (41_addressing.md R189). -/
theorem encodeMem_length (reg : RegIdx) (o : MemOperand) : 1 ≤ (encodeMem reg o).length ∧ (encodeMem reg o).length ≤ 6 := by
  cases o <;> simp [encodeMem]

/-- A register-or-memory operand takes 1 to 6 bytes. -/
theorem encodeRm_length (reg : RegIdx) (d : Rm) : 1 ≤ (encodeRm reg d).length ∧ (encodeRm reg d).length ≤ 6 := by
  cases d with
  | reg r => simp [encodeRm]
  | mem o => exact encodeMem_length reg o

/-- An immediate of kind `iv` takes 2 or 4 bytes (30_encoding.md R108). -/
theorem encodeIv_length (m : DecodeMode) (imm : Word) : (encodeIv m imm).length ≤ 4 := by
  simp only [encodeIv, leBytes_length, DecodeMode.ivBytes]
  split <;> omega

/-- A list of bytes has the length of an instruction without prefixes. -/
def Bounded (bs : List Byte) : Prop := 1 ≤ bs.length ∧ bs.length ≤ 11

theorem bounded_one (b : Byte) : Bounded [b] := by simp [Bounded]

theorem bounded_two (b c : Byte) : Bounded [b, c] := by simp [Bounded]

theorem bounded_rel (b : Byte) (v : Word) : Bounded (b :: leBytes 4 v) := by simp [Bounded]

theorem bounded_rel2 (b c : Byte) (v : Word) : Bounded (b :: c :: leBytes 4 v) := by simp [Bounded]

theorem bounded_iv (b : Byte) (m : DecodeMode) (imm : Word) : Bounded (b :: encodeIv m imm) := by
  have h := encodeIv_length m imm
  simp only [Bounded, List.length_cons]
  omega

theorem bounded_mem (b : Byte) (reg : RegIdx) (o : MemOperand) : Bounded (b :: encodeMem reg o) := by
  have h := encodeMem_length reg o
  simp only [Bounded, List.length_cons]
  omega

theorem bounded_rm (b : Byte) (reg : RegIdx) (d : Rm) : Bounded (b :: encodeRm reg d) := by
  have h := encodeRm_length reg d
  simp only [Bounded, List.length_cons]
  omega

theorem bounded_rmIb (b : Byte) (reg : RegIdx) (d : Rm) (v : Byte) : Bounded (b :: (encodeRm reg d ++ [v])) := by
  have h := encodeRm_length reg d
  simp only [Bounded, List.length_cons, List.length_append, List.length_nil]
  omega

theorem bounded_rmIv (b : Byte) (reg : RegIdx) (d : Rm) (m : DecodeMode) (imm : Word) :
    Bounded (b :: (encodeRm reg d ++ encodeIv m imm)) := by
  have h := encodeRm_length reg d
  have h2 := encodeIv_length m imm
  simp only [Bounded, List.length_cons, List.length_append]
  omega

/-- The encoding of an instruction has a legal length in every mode. -/
def EncodingBounded.Statement (i : Instr) : Prop :=
  ∀ m : DecodeMode, Bounded (encode m i)

theorem EncodingBounded.addRm8R8 (d : Rm) (r : RegIdx) : EncodingBounded.Statement (.addRm8R8 d r) :=
  fun _ => bounded_rm _ _ _

theorem EncodingBounded.addRmvRv (d : Rm) (r : RegIdx) : EncodingBounded.Statement (.addRmvRv d r) :=
  fun _ => bounded_rm _ _ _

theorem EncodingBounded.addR8Rm8 (r : RegIdx) (d : Rm) : EncodingBounded.Statement (.addR8Rm8 r d) :=
  fun _ => bounded_rm _ _ _

theorem EncodingBounded.addRvRmv (r : RegIdx) (d : Rm) : EncodingBounded.Statement (.addRvRmv r d) :=
  fun _ => bounded_rm _ _ _

theorem EncodingBounded.addAlImm8 (imm : Byte) : EncodingBounded.Statement (.addAlImm8 imm) :=
  fun _ => bounded_two _ _

theorem EncodingBounded.addEaxImmv (imm : Word) : EncodingBounded.Statement (.addEaxImmv imm) :=
  fun _ => bounded_iv _ _ _

theorem EncodingBounded.addRmvImmv (d : Rm) (imm : Word) : EncodingBounded.Statement (.addRmvImmv d imm) :=
  fun _ => bounded_rmIv _ _ _ _ _

theorem EncodingBounded.addRmvImm8s (d : Rm) (imm : Byte) : EncodingBounded.Statement (.addRmvImm8s d imm) :=
  fun _ => bounded_rmIb _ _ _ _

theorem EncodingBounded.orRm8R8 (d : Rm) (r : RegIdx) : EncodingBounded.Statement (.orRm8R8 d r) :=
  fun _ => bounded_rm _ _ _

theorem EncodingBounded.orRmvRv (d : Rm) (r : RegIdx) : EncodingBounded.Statement (.orRmvRv d r) :=
  fun _ => bounded_rm _ _ _

theorem EncodingBounded.orR8Rm8 (r : RegIdx) (d : Rm) : EncodingBounded.Statement (.orR8Rm8 r d) :=
  fun _ => bounded_rm _ _ _

theorem EncodingBounded.orRvRmv (r : RegIdx) (d : Rm) : EncodingBounded.Statement (.orRvRmv r d) :=
  fun _ => bounded_rm _ _ _

theorem EncodingBounded.orAlImm8 (imm : Byte) : EncodingBounded.Statement (.orAlImm8 imm) :=
  fun _ => bounded_two _ _

theorem EncodingBounded.orEaxImmv (imm : Word) : EncodingBounded.Statement (.orEaxImmv imm) :=
  fun _ => bounded_iv _ _ _

theorem EncodingBounded.orRmvImmv (d : Rm) (imm : Word) : EncodingBounded.Statement (.orRmvImmv d imm) :=
  fun _ => bounded_rmIv _ _ _ _ _

theorem EncodingBounded.orRmvImm8s (d : Rm) (imm : Byte) : EncodingBounded.Statement (.orRmvImm8s d imm) :=
  fun _ => bounded_rmIb _ _ _ _

theorem EncodingBounded.andRm8R8 (d : Rm) (r : RegIdx) : EncodingBounded.Statement (.andRm8R8 d r) :=
  fun _ => bounded_rm _ _ _

theorem EncodingBounded.andRmvRv (d : Rm) (r : RegIdx) : EncodingBounded.Statement (.andRmvRv d r) :=
  fun _ => bounded_rm _ _ _

theorem EncodingBounded.andR8Rm8 (r : RegIdx) (d : Rm) : EncodingBounded.Statement (.andR8Rm8 r d) :=
  fun _ => bounded_rm _ _ _

theorem EncodingBounded.andRvRmv (r : RegIdx) (d : Rm) : EncodingBounded.Statement (.andRvRmv r d) :=
  fun _ => bounded_rm _ _ _

theorem EncodingBounded.andAlImm8 (imm : Byte) : EncodingBounded.Statement (.andAlImm8 imm) :=
  fun _ => bounded_two _ _

theorem EncodingBounded.andEaxImmv (imm : Word) : EncodingBounded.Statement (.andEaxImmv imm) :=
  fun _ => bounded_iv _ _ _

theorem EncodingBounded.andRmvImmv (d : Rm) (imm : Word) : EncodingBounded.Statement (.andRmvImmv d imm) :=
  fun _ => bounded_rmIv _ _ _ _ _

theorem EncodingBounded.andRmvImm8s (d : Rm) (imm : Byte) : EncodingBounded.Statement (.andRmvImm8s d imm) :=
  fun _ => bounded_rmIb _ _ _ _

theorem EncodingBounded.subRm8R8 (d : Rm) (r : RegIdx) : EncodingBounded.Statement (.subRm8R8 d r) :=
  fun _ => bounded_rm _ _ _

theorem EncodingBounded.subRmvRv (d : Rm) (r : RegIdx) : EncodingBounded.Statement (.subRmvRv d r) :=
  fun _ => bounded_rm _ _ _

theorem EncodingBounded.subR8Rm8 (r : RegIdx) (d : Rm) : EncodingBounded.Statement (.subR8Rm8 r d) :=
  fun _ => bounded_rm _ _ _

theorem EncodingBounded.subRvRmv (r : RegIdx) (d : Rm) : EncodingBounded.Statement (.subRvRmv r d) :=
  fun _ => bounded_rm _ _ _

theorem EncodingBounded.subAlImm8 (imm : Byte) : EncodingBounded.Statement (.subAlImm8 imm) :=
  fun _ => bounded_two _ _

theorem EncodingBounded.subEaxImmv (imm : Word) : EncodingBounded.Statement (.subEaxImmv imm) :=
  fun _ => bounded_iv _ _ _

theorem EncodingBounded.subRmvImmv (d : Rm) (imm : Word) : EncodingBounded.Statement (.subRmvImmv d imm) :=
  fun _ => bounded_rmIv _ _ _ _ _

theorem EncodingBounded.subRmvImm8s (d : Rm) (imm : Byte) : EncodingBounded.Statement (.subRmvImm8s d imm) :=
  fun _ => bounded_rmIb _ _ _ _

theorem EncodingBounded.xorRm8R8 (d : Rm) (r : RegIdx) : EncodingBounded.Statement (.xorRm8R8 d r) :=
  fun _ => bounded_rm _ _ _

theorem EncodingBounded.xorRmvRv (d : Rm) (r : RegIdx) : EncodingBounded.Statement (.xorRmvRv d r) :=
  fun _ => bounded_rm _ _ _

theorem EncodingBounded.xorR8Rm8 (r : RegIdx) (d : Rm) : EncodingBounded.Statement (.xorR8Rm8 r d) :=
  fun _ => bounded_rm _ _ _

theorem EncodingBounded.xorRvRmv (r : RegIdx) (d : Rm) : EncodingBounded.Statement (.xorRvRmv r d) :=
  fun _ => bounded_rm _ _ _

theorem EncodingBounded.xorAlImm8 (imm : Byte) : EncodingBounded.Statement (.xorAlImm8 imm) :=
  fun _ => bounded_two _ _

theorem EncodingBounded.xorEaxImmv (imm : Word) : EncodingBounded.Statement (.xorEaxImmv imm) :=
  fun _ => bounded_iv _ _ _

theorem EncodingBounded.xorRmvImmv (d : Rm) (imm : Word) : EncodingBounded.Statement (.xorRmvImmv d imm) :=
  fun _ => bounded_rmIv _ _ _ _ _

theorem EncodingBounded.xorRmvImm8s (d : Rm) (imm : Byte) : EncodingBounded.Statement (.xorRmvImm8s d imm) :=
  fun _ => bounded_rmIb _ _ _ _

theorem EncodingBounded.cmpRm8R8 (d : Rm) (r : RegIdx) : EncodingBounded.Statement (.cmpRm8R8 d r) :=
  fun _ => bounded_rm _ _ _

theorem EncodingBounded.cmpRmvRv (d : Rm) (r : RegIdx) : EncodingBounded.Statement (.cmpRmvRv d r) :=
  fun _ => bounded_rm _ _ _

theorem EncodingBounded.cmpR8Rm8 (r : RegIdx) (d : Rm) : EncodingBounded.Statement (.cmpR8Rm8 r d) :=
  fun _ => bounded_rm _ _ _

theorem EncodingBounded.cmpRvRmv (r : RegIdx) (d : Rm) : EncodingBounded.Statement (.cmpRvRmv r d) :=
  fun _ => bounded_rm _ _ _

theorem EncodingBounded.cmpAlImm8 (imm : Byte) : EncodingBounded.Statement (.cmpAlImm8 imm) :=
  fun _ => bounded_two _ _

theorem EncodingBounded.cmpEaxImmv (imm : Word) : EncodingBounded.Statement (.cmpEaxImmv imm) :=
  fun _ => bounded_iv _ _ _

theorem EncodingBounded.cmpRmvImmv (d : Rm) (imm : Word) : EncodingBounded.Statement (.cmpRmvImmv d imm) :=
  fun _ => bounded_rmIv _ _ _ _ _

theorem EncodingBounded.cmpRmvImm8s (d : Rm) (imm : Byte) : EncodingBounded.Statement (.cmpRmvImm8s d imm) :=
  fun _ => bounded_rmIb _ _ _ _

theorem EncodingBounded.testRm8R8 (d : Rm) (r : RegIdx) : EncodingBounded.Statement (.testRm8R8 d r) :=
  fun _ => bounded_rm _ _ _

theorem EncodingBounded.testRmvRv (d : Rm) (r : RegIdx) : EncodingBounded.Statement (.testRmvRv d r) :=
  fun _ => bounded_rm _ _ _

theorem EncodingBounded.testAlImm8 (imm : Byte) : EncodingBounded.Statement (.testAlImm8 imm) :=
  fun _ => bounded_two _ _

theorem EncodingBounded.testEaxImmv (imm : Word) : EncodingBounded.Statement (.testEaxImmv imm) :=
  fun _ => bounded_iv _ _ _

theorem EncodingBounded.testRmvImmv (d : Rm) (imm : Word) : EncodingBounded.Statement (.testRmvImmv d imm) :=
  fun _ => bounded_rmIv _ _ _ _ _

theorem EncodingBounded.notRmv (d : Rm) : EncodingBounded.Statement (.notRmv d) :=
  fun _ => bounded_rm _ _ _

theorem EncodingBounded.negRmv (d : Rm) : EncodingBounded.Statement (.negRmv d) :=
  fun _ => bounded_rm _ _ _

theorem EncodingBounded.mulRmv (d : Rm) : EncodingBounded.Statement (.mulRmv d) :=
  fun _ => bounded_rm _ _ _

theorem EncodingBounded.imulRmv (d : Rm) : EncodingBounded.Statement (.imulRmv d) :=
  fun _ => bounded_rm _ _ _

theorem EncodingBounded.divRmv (d : Rm) : EncodingBounded.Statement (.divRmv d) :=
  fun _ => bounded_rm _ _ _

theorem EncodingBounded.idivRmv (d : Rm) : EncodingBounded.Statement (.idivRmv d) :=
  fun _ => bounded_rm _ _ _

theorem EncodingBounded.incRv (r : RegIdx) : EncodingBounded.Statement (.incRv r) :=
  fun _ => bounded_one _

theorem EncodingBounded.incRmv (d : Rm) : EncodingBounded.Statement (.incRmv d) :=
  fun _ => bounded_rm _ _ _

theorem EncodingBounded.decRv (r : RegIdx) : EncodingBounded.Statement (.decRv r) :=
  fun _ => bounded_one _

theorem EncodingBounded.decRmv (d : Rm) : EncodingBounded.Statement (.decRmv d) :=
  fun _ => bounded_rm _ _ _

theorem EncodingBounded.rolRmvImm8 (d : Rm) (imm : Byte) : EncodingBounded.Statement (.rolRmvImm8 d imm) :=
  fun _ => bounded_rmIb _ _ _ _

theorem EncodingBounded.rolRmvOne (d : Rm) : EncodingBounded.Statement (.rolRmvOne d) :=
  fun _ => bounded_rm _ _ _

theorem EncodingBounded.rolRmvCl (d : Rm) : EncodingBounded.Statement (.rolRmvCl d) :=
  fun _ => bounded_rm _ _ _

theorem EncodingBounded.rorRmvImm8 (d : Rm) (imm : Byte) : EncodingBounded.Statement (.rorRmvImm8 d imm) :=
  fun _ => bounded_rmIb _ _ _ _

theorem EncodingBounded.rorRmvOne (d : Rm) : EncodingBounded.Statement (.rorRmvOne d) :=
  fun _ => bounded_rm _ _ _

theorem EncodingBounded.rorRmvCl (d : Rm) : EncodingBounded.Statement (.rorRmvCl d) :=
  fun _ => bounded_rm _ _ _

theorem EncodingBounded.rclRmvImm8 (d : Rm) (imm : Byte) : EncodingBounded.Statement (.rclRmvImm8 d imm) :=
  fun _ => bounded_rmIb _ _ _ _

theorem EncodingBounded.rclRmvOne (d : Rm) : EncodingBounded.Statement (.rclRmvOne d) :=
  fun _ => bounded_rm _ _ _

theorem EncodingBounded.rclRmvCl (d : Rm) : EncodingBounded.Statement (.rclRmvCl d) :=
  fun _ => bounded_rm _ _ _

theorem EncodingBounded.rcrRmvImm8 (d : Rm) (imm : Byte) : EncodingBounded.Statement (.rcrRmvImm8 d imm) :=
  fun _ => bounded_rmIb _ _ _ _

theorem EncodingBounded.rcrRmvOne (d : Rm) : EncodingBounded.Statement (.rcrRmvOne d) :=
  fun _ => bounded_rm _ _ _

theorem EncodingBounded.rcrRmvCl (d : Rm) : EncodingBounded.Statement (.rcrRmvCl d) :=
  fun _ => bounded_rm _ _ _

theorem EncodingBounded.shlRmvImm8 (d : Rm) (imm : Byte) : EncodingBounded.Statement (.shlRmvImm8 d imm) :=
  fun _ => bounded_rmIb _ _ _ _

theorem EncodingBounded.shlRmvOne (d : Rm) : EncodingBounded.Statement (.shlRmvOne d) :=
  fun _ => bounded_rm _ _ _

theorem EncodingBounded.shlRmvCl (d : Rm) : EncodingBounded.Statement (.shlRmvCl d) :=
  fun _ => bounded_rm _ _ _

theorem EncodingBounded.shrRmvImm8 (d : Rm) (imm : Byte) : EncodingBounded.Statement (.shrRmvImm8 d imm) :=
  fun _ => bounded_rmIb _ _ _ _

theorem EncodingBounded.shrRmvOne (d : Rm) : EncodingBounded.Statement (.shrRmvOne d) :=
  fun _ => bounded_rm _ _ _

theorem EncodingBounded.shrRmvCl (d : Rm) : EncodingBounded.Statement (.shrRmvCl d) :=
  fun _ => bounded_rm _ _ _

theorem EncodingBounded.sarRmvImm8 (d : Rm) (imm : Byte) : EncodingBounded.Statement (.sarRmvImm8 d imm) :=
  fun _ => bounded_rmIb _ _ _ _

theorem EncodingBounded.sarRmvOne (d : Rm) : EncodingBounded.Statement (.sarRmvOne d) :=
  fun _ => bounded_rm _ _ _

theorem EncodingBounded.sarRmvCl (d : Rm) : EncodingBounded.Statement (.sarRmvCl d) :=
  fun _ => bounded_rm _ _ _

theorem EncodingBounded.movRm8R8 (d : Rm) (r : RegIdx) : EncodingBounded.Statement (.movRm8R8 d r) :=
  fun _ => bounded_rm _ _ _

theorem EncodingBounded.movRmvRv (d : Rm) (r : RegIdx) : EncodingBounded.Statement (.movRmvRv d r) :=
  fun _ => bounded_rm _ _ _

theorem EncodingBounded.movR8Rm8 (r : RegIdx) (d : Rm) : EncodingBounded.Statement (.movR8Rm8 r d) :=
  fun _ => bounded_rm _ _ _

theorem EncodingBounded.movRvRmv (r : RegIdx) (d : Rm) : EncodingBounded.Statement (.movRvRmv r d) :=
  fun _ => bounded_rm _ _ _

theorem EncodingBounded.movR8Imm8 (r : RegIdx) (imm : Byte) : EncodingBounded.Statement (.movR8Imm8 r imm) :=
  fun _ => bounded_two _ _

theorem EncodingBounded.movRvImmv (r : RegIdx) (imm : Word) : EncodingBounded.Statement (.movRvImmv r imm) :=
  fun _ => bounded_iv _ _ _

theorem EncodingBounded.movRm8Imm8 (x : RegIdx) (d : Rm) (imm : Byte) : EncodingBounded.Statement (.movRm8Imm8 x d imm) :=
  fun _ => bounded_rmIb _ _ _ _

theorem EncodingBounded.movRmvImmv (x : RegIdx) (d : Rm) (imm : Word) : EncodingBounded.Statement (.movRmvImmv x d imm) :=
  fun _ => bounded_rmIv _ _ _ _ _

theorem EncodingBounded.lea (r : RegIdx) (m : MemOperand) : EncodingBounded.Statement (.lea r m) :=
  fun _ => bounded_mem _ _ _

theorem EncodingBounded.pushRv (r : RegIdx) : EncodingBounded.Statement (.pushRv r) :=
  fun _ => bounded_one _

theorem EncodingBounded.pushImmv (imm : Word) : EncodingBounded.Statement (.pushImmv imm) :=
  fun _ => bounded_iv _ _ _

theorem EncodingBounded.pushImm8s (imm : Byte) : EncodingBounded.Statement (.pushImm8s imm) :=
  fun _ => bounded_two _ _

theorem EncodingBounded.pushRmv (d : Rm) : EncodingBounded.Statement (.pushRmv d) :=
  fun _ => bounded_rm _ _ _

theorem EncodingBounded.popRv (r : RegIdx) : EncodingBounded.Statement (.popRv r) :=
  fun _ => bounded_one _

theorem EncodingBounded.popRmv (x : RegIdx) (d : Rm) : EncodingBounded.Statement (.popRmv x d) :=
  fun _ => bounded_rm _ _ _

theorem EncodingBounded.leave : EncodingBounded.Statement (.leave) :=
  fun _ => bounded_one _

theorem EncodingBounded.jmpRel8 (rel : Byte) : EncodingBounded.Statement (.jmpRel8 rel) :=
  fun _ => bounded_two _ _

theorem EncodingBounded.jmpRel32 (rel : Word) : EncodingBounded.Statement (.jmpRel32 rel) :=
  fun _ => bounded_rel _ _

theorem EncodingBounded.joRel8 (rel : Byte) : EncodingBounded.Statement (.joRel8 rel) :=
  fun _ => bounded_two _ _

theorem EncodingBounded.jnoRel8 (rel : Byte) : EncodingBounded.Statement (.jnoRel8 rel) :=
  fun _ => bounded_two _ _

theorem EncodingBounded.jbRel8 (rel : Byte) : EncodingBounded.Statement (.jbRel8 rel) :=
  fun _ => bounded_two _ _

theorem EncodingBounded.jaeRel8 (rel : Byte) : EncodingBounded.Statement (.jaeRel8 rel) :=
  fun _ => bounded_two _ _

theorem EncodingBounded.jeRel8 (rel : Byte) : EncodingBounded.Statement (.jeRel8 rel) :=
  fun _ => bounded_two _ _

theorem EncodingBounded.jneRel8 (rel : Byte) : EncodingBounded.Statement (.jneRel8 rel) :=
  fun _ => bounded_two _ _

theorem EncodingBounded.jbeRel8 (rel : Byte) : EncodingBounded.Statement (.jbeRel8 rel) :=
  fun _ => bounded_two _ _

theorem EncodingBounded.jaRel8 (rel : Byte) : EncodingBounded.Statement (.jaRel8 rel) :=
  fun _ => bounded_two _ _

theorem EncodingBounded.jsRel8 (rel : Byte) : EncodingBounded.Statement (.jsRel8 rel) :=
  fun _ => bounded_two _ _

theorem EncodingBounded.jnsRel8 (rel : Byte) : EncodingBounded.Statement (.jnsRel8 rel) :=
  fun _ => bounded_two _ _

theorem EncodingBounded.jpRel8 (rel : Byte) : EncodingBounded.Statement (.jpRel8 rel) :=
  fun _ => bounded_two _ _

theorem EncodingBounded.jnpRel8 (rel : Byte) : EncodingBounded.Statement (.jnpRel8 rel) :=
  fun _ => bounded_two _ _

theorem EncodingBounded.jlRel8 (rel : Byte) : EncodingBounded.Statement (.jlRel8 rel) :=
  fun _ => bounded_two _ _

theorem EncodingBounded.jgeRel8 (rel : Byte) : EncodingBounded.Statement (.jgeRel8 rel) :=
  fun _ => bounded_two _ _

theorem EncodingBounded.jleRel8 (rel : Byte) : EncodingBounded.Statement (.jleRel8 rel) :=
  fun _ => bounded_two _ _

theorem EncodingBounded.jgRel8 (rel : Byte) : EncodingBounded.Statement (.jgRel8 rel) :=
  fun _ => bounded_two _ _

theorem EncodingBounded.joRel32 (rel : Word) : EncodingBounded.Statement (.joRel32 rel) :=
  fun _ => bounded_rel2 _ _ _

theorem EncodingBounded.jnoRel32 (rel : Word) : EncodingBounded.Statement (.jnoRel32 rel) :=
  fun _ => bounded_rel2 _ _ _

theorem EncodingBounded.jbRel32 (rel : Word) : EncodingBounded.Statement (.jbRel32 rel) :=
  fun _ => bounded_rel2 _ _ _

theorem EncodingBounded.jaeRel32 (rel : Word) : EncodingBounded.Statement (.jaeRel32 rel) :=
  fun _ => bounded_rel2 _ _ _

theorem EncodingBounded.jeRel32 (rel : Word) : EncodingBounded.Statement (.jeRel32 rel) :=
  fun _ => bounded_rel2 _ _ _

theorem EncodingBounded.jneRel32 (rel : Word) : EncodingBounded.Statement (.jneRel32 rel) :=
  fun _ => bounded_rel2 _ _ _

theorem EncodingBounded.jbeRel32 (rel : Word) : EncodingBounded.Statement (.jbeRel32 rel) :=
  fun _ => bounded_rel2 _ _ _

theorem EncodingBounded.jaRel32 (rel : Word) : EncodingBounded.Statement (.jaRel32 rel) :=
  fun _ => bounded_rel2 _ _ _

theorem EncodingBounded.jsRel32 (rel : Word) : EncodingBounded.Statement (.jsRel32 rel) :=
  fun _ => bounded_rel2 _ _ _

theorem EncodingBounded.jnsRel32 (rel : Word) : EncodingBounded.Statement (.jnsRel32 rel) :=
  fun _ => bounded_rel2 _ _ _

theorem EncodingBounded.jpRel32 (rel : Word) : EncodingBounded.Statement (.jpRel32 rel) :=
  fun _ => bounded_rel2 _ _ _

theorem EncodingBounded.jnpRel32 (rel : Word) : EncodingBounded.Statement (.jnpRel32 rel) :=
  fun _ => bounded_rel2 _ _ _

theorem EncodingBounded.jlRel32 (rel : Word) : EncodingBounded.Statement (.jlRel32 rel) :=
  fun _ => bounded_rel2 _ _ _

theorem EncodingBounded.jgeRel32 (rel : Word) : EncodingBounded.Statement (.jgeRel32 rel) :=
  fun _ => bounded_rel2 _ _ _

theorem EncodingBounded.jleRel32 (rel : Word) : EncodingBounded.Statement (.jleRel32 rel) :=
  fun _ => bounded_rel2 _ _ _

theorem EncodingBounded.jgRel32 (rel : Word) : EncodingBounded.Statement (.jgRel32 rel) :=
  fun _ => bounded_rel2 _ _ _

theorem EncodingBounded.callRel32 (rel : Word) : EncodingBounded.Statement (.callRel32 rel) :=
  fun _ => bounded_rel _ _

theorem EncodingBounded.callRm32 (d : Rm) : EncodingBounded.Statement (.callRm32 d) :=
  fun _ => bounded_rm _ _ _

theorem EncodingBounded.ret : EncodingBounded.Statement (.ret) :=
  fun _ => bounded_one _

theorem EncodingBounded.intImm8 (v : Byte) : EncodingBounded.Statement (.intImm8 v) :=
  fun _ => bounded_two _ _

theorem EncodingBounded.stos : EncodingBounded.Statement (.stos) :=
  fun _ => bounded_one _

theorem EncodingBounded.inAlImm8 (port : Byte) : EncodingBounded.Statement (.inAlImm8 port) :=
  fun _ => bounded_two _ _

theorem EncodingBounded.inAlDx : EncodingBounded.Statement (.inAlDx) :=
  fun _ => bounded_one _

theorem EncodingBounded.outImm8Al (port : Byte) : EncodingBounded.Statement (.outImm8Al port) :=
  fun _ => bounded_two _ _

theorem EncodingBounded.outDxAl : EncodingBounded.Statement (.outDxAl) :=
  fun _ => bounded_one _

theorem EncodingBounded.segEs : EncodingBounded.Statement (.segEs) :=
  fun _ => bounded_one _

theorem EncodingBounded.segCs : EncodingBounded.Statement (.segCs) :=
  fun _ => bounded_one _

theorem EncodingBounded.segSs : EncodingBounded.Statement (.segSs) :=
  fun _ => bounded_one _

theorem EncodingBounded.segDs : EncodingBounded.Statement (.segDs) :=
  fun _ => bounded_one _

theorem EncodingBounded.segFs : EncodingBounded.Statement (.segFs) :=
  fun _ => bounded_one _

theorem EncodingBounded.segGs : EncodingBounded.Statement (.segGs) :=
  fun _ => bounded_one _

theorem EncodingBounded.opSize : EncodingBounded.Statement (.opSize) :=
  fun _ => bounded_one _

theorem EncodingBounded.addrSize : EncodingBounded.Statement (.addrSize) :=
  fun _ => bounded_one _

theorem EncodingBounded.lock : EncodingBounded.Statement (.lock) :=
  fun _ => bounded_one _

theorem EncodingBounded.repnz : EncodingBounded.Statement (.repnz) :=
  fun _ => bounded_one _

theorem EncodingBounded.repz : EncodingBounded.Statement (.repz) :=
  fun _ => bounded_one _

end Sys2Proof.Laws
end

