-- ==== Sys2Proof/Laws/Step.lean ====
section
/-! SUPPORT. What every meaning built on a shared operation may do, said once for each shared operation: what its next
state keeps, which faults it raises and which refusals it makes. -/

namespace Sys2Proof.Machine

open Sys2Proof

/-- What an instruction that is no prefix byte, transfer or host call keeps. -/
structure Plain (s t : State) : Prop where
  pfx : t.pfx = s.pfx
  capacity : t.mem.capacity = s.mem.capacity
  ipStart : t.ipStart = s.ipStart
  notice : t.notice = s.notice
  hostCalls : t.hostCalls = s.hostCalls
  flags : StoredFlagsKept s.flags t.flags
  wf : s.mem.wf = true → t.mem.wf = true

theorem Plain.refl (s : State) : Plain s s := ⟨rfl, rfl, rfl, rfl, rfl, ⟨rfl, rfl, rfl⟩, id⟩

theorem Plain.trans {s t u : State} (h : Plain s t) (g : Plain t u) : Plain s u :=
  ⟨g.pfx.trans h.pfx, g.capacity.trans h.capacity, g.ipStart.trans h.ipStart, g.notice.trans h.notice,
    g.hostCalls.trans h.hostCalls,
    ⟨g.flags.1.trans h.flags.1, g.flags.2.1.trans h.flags.2.1, g.flags.2.2.trans h.flags.2.2⟩, fun w => g.wf (h.wf w)⟩

/-- An out-of-bounds record that is true of the state. -/
def OobTrue (s : State) (r : Fault) : Prop :=
  ∃ addr n dir, r = .outOfBoundsMemoryAccess s.ipStart addr n dir ∧ s.mem.capacity < addr.toNat + n ∧
    (n = 1 ∨ n = 2 ∨ n = 4)

/-- The outcome of an operation from `s`: a next state satisfies `N`, a fault `F`, a refusal `R`. -/
structure Sound {α : Type} (N : α → Prop) (F : Fault → Prop) (R : Refusal → Prop) (o : Out α) : Prop where
  next : ∀ t, o = .next t → N t
  fault : ∀ r, o = .fault r → F r
  refused : ∀ r, o = .refused r → R r

/-- The refusal of 16-bit addressing, only then and only of a memory operand (41_addressing.md R184). -/
def RmRefusal (d : Rm) (s : State) (r : Refusal) : Prop := s.pfx.as32 = false ∧ r = .addr16 ∧ ∃ o, d = .mem o

/-- What an operation without a register-or-memory operand refuses: nothing. -/
def NoRefusal (_ : Refusal) : Prop := False

theorem Sound.of_next {α : Type} {N : α → Prop} {F : Fault → Prop} {R : Refusal → Prop} {a : α} (h : N a) :
    Sound N F R (.next a) :=
  ⟨fun t e => by simp at e; exact e ▸ h, fun r e => by simp at e, fun r e => by simp at e⟩

theorem Sound.of_fault {α : Type} {N : α → Prop} {F : Fault → Prop} {R : Refusal → Prop} {r : Fault} (h : F r) :
    Sound (α := α) N F R (.fault r) :=
  ⟨fun t e => by simp at e, fun r e => by simp at e; exact e ▸ h, fun r e => by simp at e⟩

theorem Sound.of_refused {α : Type} {N : α → Prop} {F : Fault → Prop} {R : Refusal → Prop} {r : Refusal} (h : R r) :
    Sound (α := α) N F R (.refused r) :=
  ⟨fun t e => by simp at e, fun r e => by simp at e, fun r e => by simp at e; exact e ▸ h⟩

/-- A chain is sound when its first part is and its second part is after every answer of the first. -/
theorem Sound.chain {α β : Type} {M : α → Prop} {N : β → Prop} {F : Fault → Prop} {R : Refusal → Prop} {o : Out α}
    {k : α → Out β} (h : Sound M F R o) (g : ∀ a, M a → Sound N F R (k a)) : Sound N F R (chain o k) := by
  cases o with
  | next a => exact g a (h.next a rfl)
  | fault r => exact .of_fault (h.fault r rfl)
  | refused r => exact .of_refused (h.refused r rfl)

theorem Sound.mono {α : Type} {N N' : α → Prop} {F F' : Fault → Prop} {R R' : Refusal → Prop} {o : Out α}
    (h : Sound N F R o) (hN : ∀ a, N a → N' a) (hF : ∀ r, F r → F' r) (hR : ∀ r, R r → R' r) : Sound N' F' R' o :=
  ⟨fun t e => hN _ (h.next t e), fun r e => hF _ (h.fault r e), fun r e => hR _ (h.refused r e)⟩

theorem bytes_cases (w : Width) : w.bytes = 1 ∨ w.bytes = 2 ∨ w.bytes = 4 := by cases w <;> simp

/-! ## Loads, stores, operands -/

theorem load_sound (w : Width) (a : Word) (s : State) :
    Sound (fun _ => True) (OobTrue s) NoRefusal (load w a s) := by
  by_cases h : a.toNat + w.bytes ≤ s.mem.capacity
  · rw [load_of_inBounds h]; exact .of_next trivial
  · rw [load_of_outOfBounds (by omega)]
    exact .of_fault ⟨a, w.bytes, .read, rfl, by omega, bytes_cases w⟩

/-- The next state of a store: plain, with registers, flags and IP as before. -/
structure MemOnly (s t : State) : Prop where
  plain : Plain s t
  regs : t.regs = s.regs
  allFlags : t.flags = s.flags
  ip : t.ip = s.ip

theorem store_sound (w : Width) (a : Word) (v : BitVec w.bits) (s : State) :
    Sound (MemOnly s) (OobTrue s) NoRefusal (store w a v s) := by
  by_cases h : a.toNat + w.bytes ≤ s.mem.capacity
  · rw [store_of_inBounds h]
    refine .of_next ⟨⟨rfl, by simp, rfl, rfl, rfl, ⟨rfl, rfl, rfl⟩, fun hw => ?_⟩, rfl, rfl, rfl⟩
    exact Memory.write_wf hw w v (by simpa [Memory.inBounds] using h)
  · rw [store_of_outOfBounds (by omega)]
    exact .of_fault ⟨a, w.bytes, .write, rfl, by omega, bytes_cases w⟩

theorem addressed_sound {α : Type} {N : α → Prop} {F : Fault → Prop} {s : State} {o : MemOperand} {k : Out α}
    (h : Sound N F NoRefusal k) : Sound N F (RmRefusal (.mem o) s) (addressed s k) := by
  unfold addressed
  split
  · exact h.mono (fun _ => id) (fun _ => id) fun _ => False.elim
  · rename_i ha; exact .of_refused ⟨by simpa using ha, rfl, o, rfl⟩

theorem rmRead_sound (w : Width) (d : Rm) (s : State) :
    Sound (fun _ => True) (OobTrue s) (RmRefusal d s) (rmRead w d s) := by
  cases d with
  | reg r => exact .of_next trivial
  | mem o => exact addressed_sound (load_sound ..)

/-- The next state keeps IP besides what `Plain` says. -/
def PlainIp (s t : State) : Prop := Plain s t ∧ t.ip = s.ip

theorem PlainIp.refl (s : State) : PlainIp s s := ⟨.refl s, rfl⟩

theorem PlainIp.trans {s t u : State} (h : PlainIp s t) (g : PlainIp t u) : PlainIp s u :=
  ⟨h.1.trans g.1, g.2.trans h.2⟩

theorem writeReg_plain (w : Width) (i : RegIdx) (v : BitVec w.bits) (s : State) : PlainIp s (writeReg w i v s) :=
  ⟨⟨by simp, by simp, by simp, by simp, by simp, by simp [StoredFlagsKept], by simp⟩, by simp⟩

theorem setReg_plain (i : RegIdx) (v : Word) (s : State) : PlainIp s (s.setReg i v) := writeReg_plain .w32 i v s

theorem setFlags_plain {f : Flags} {s : State} (h : StoredFlagsKept s.flags f) : PlainIp s (s.setFlags f) :=
  ⟨⟨rfl, rfl, rfl, rfl, rfl, h, id⟩, rfl⟩

theorem drawn_plain (n : Nat) (s : State) : PlainIp s (s.drawn n) := ⟨⟨rfl, rfl, rfl, rfl, rfl, ⟨rfl, rfl, rfl⟩, id⟩, rfl⟩

theorem setFlags_drawn_plain {f : Flags} {s : State} (n : Nat) (h : StoredFlagsKept s.flags f) :
    PlainIp s ((s.setFlags f).drawn n) := ⟨⟨rfl, rfl, rfl, rfl, rfl, h, id⟩, rfl⟩

theorem rmWrite_sound (w : Width) (d : Rm) (v : BitVec w.bits) (s : State) :
    Sound (PlainIp s) (OobTrue s) (RmRefusal d s) (rmWrite w d v s) := by
  cases d with
  | reg r => exact .of_next (writeReg_plain ..)
  | mem o => exact addressed_sound ((store_sound ..).mono (fun _ h => ⟨h.plain, h.ip⟩) (fun _ => id) fun _ => id)

/-! ## Flags -/

theorem StoredFlagsKept.refl (f : Flags) : StoredFlagsKept f f := ⟨rfl, rfl, rfl⟩

theorem flagsSzp_stored {n : Nat} (r : BitVec n) (f : Flags) : StoredFlagsKept f (flagsSzp r f) := .refl f

theorem flagsAdd_stored {n : Nat} (a b r : BitVec n) (f : Flags) : StoredFlagsKept f (flagsAdd a b r f) := .refl f

theorem flagsSub_stored {n : Nat} (a b r : BitVec n) (f : Flags) : StoredFlagsKept f (flagsSub a b r f) := .refl f

theorem flagsLogic_stored {n : Nat} (r : BitVec n) (f : Flags) : StoredFlagsKept f (flagsLogic r f) := .refl f

theorem flagsInc_stored {n : Nat} (a r : BitVec n) (f : Flags) : StoredFlagsKept f (flagsInc a r f) := .refl f

theorem flagsDec_stored {n : Nat} (a r : BitVec n) (f : Flags) : StoredFlagsKept f (flagsDec a r f) := .refl f

theorem flagsNeg_stored {n : Nat} (a r : BitVec n) (f : Flags) : StoredFlagsKept f (flagsNeg a r f) := .refl f

theorem aluFlags_stored {n : Nat} (op : AluOp) (a b r : BitVec n) (f : Flags) :
    StoredFlagsKept f (aluFlags op a b r f) := by cases op <;> exact .refl f

/-! ## The shared forms -/

/-- Sound, plain and with IP kept, with no fault but a true out-of-bounds record and no refusal but those of `R`. -/
abbrev Ordinary (R : Refusal → Prop) (s : State) (o : Out State) : Prop := Sound (PlainIp s) (OobTrue s) R o

theorem aluFinish_ordinary {n : Nat} {R : Refusal → Prop} (op : AluOp) (a b : BitVec n)
    {write : BitVec n → State → Out State} {s : State} (h : ∀ v, Ordinary R s (write v s)) :
    Ordinary R s (aluFinish op a b write s) := by
  unfold aluFinish
  refine Sound.chain (M := PlainIp s) ?_ fun t ht => .of_next (ht.trans (setFlags_plain (aluFlags_stored ..)))
  split
  · exact h _
  · exact .of_next (.refl s)

theorem aluRmReg_ordinary (op : AluOp) (w : Width) (d : Rm) (r : RegIdx) (s : State) :
    Ordinary (RmRefusal d s) s (aluRmReg op w d r s) :=
  (rmRead_sound ..).chain fun _ _ => aluFinish_ordinary _ _ _ fun _ => rmWrite_sound ..

theorem aluRegRm_ordinary (op : AluOp) (w : Width) (r : RegIdx) (d : Rm) (s : State) :
    Ordinary (RmRefusal d s) s (aluRegRm op w r d s) :=
  (rmRead_sound ..).chain fun _ _ => aluFinish_ordinary _ _ _ fun _ => .of_next (writeReg_plain ..)

theorem aluAccImm_ordinary (op : AluOp) (w : Width) (imm : BitVec w.bits) (s : State) :
    Ordinary NoRefusal s (aluAccImm op w imm s) := aluFinish_ordinary _ _ _ fun _ => .of_next (writeReg_plain ..)

theorem aluRmImm_ordinary (op : AluOp) (w : Width) (d : Rm) (imm : BitVec w.bits) (s : State) :
    Ordinary (RmRefusal d s) s (aluRmImm op w d imm s) :=
  (rmRead_sound ..).chain fun _ _ => aluFinish_ordinary _ _ _ fun _ => rmWrite_sound ..

theorem unaryRm_ordinary (w : Width) (d : Rm) (f : BitVec w.bits → BitVec w.bits)
    {fl : BitVec w.bits → BitVec w.bits → Flags → Flags} (hf : ∀ a r g, StoredFlagsKept g (fl a r g)) (s : State) :
    Ordinary (RmRefusal d s) s (unaryRm w d f fl s) :=
  (rmRead_sound ..).chain fun _ _ => (rmWrite_sound ..).chain fun _ ht =>
    .of_next (ht.trans (setFlags_plain (hf ..)))

theorem writePair_plain (w : Width) (lo hi : BitVec w.bits) (s : State) : PlainIp s (writePair w lo hi s) :=
  (writeReg_plain ..).trans (writeReg_plain ..)

theorem mulFlags_plain (c : Bool) (s : State) : PlainIp s (mulFlags c s) :=
  setFlags_drawn_plain _ (by exact ⟨rfl, rfl, rfl⟩)

theorem divFlags_plain (s : State) : PlainIp s (divFlags s) :=
  setFlags_drawn_plain _ (by exact ⟨rfl, rfl, rfl⟩)

/-- The faults of a division (43_muldiv.md R297). -/
def DivisionFault (s : State) (r : Fault) : Prop :=
  OobTrue s r ∨ r = .divideByZero s.ipStart ∨ r = .divisionOverflow s.ipStart

theorem divWith_sound (w : Width) (b : BitVec w.bits) (s : State) :
    Sound (PlainIp s) (DivisionFault s) NoRefusal (divWith w b s) := by
  unfold divWith raiseDivideByZero raiseDivisionOverflow
  split
  · exact .of_fault (.inr (.inl rfl))
  · dsimp only
    split
    · exact .of_fault (.inr (.inr rfl))
    · exact .of_next ((writePair_plain ..).trans (divFlags_plain _))

theorem idivWith_sound (w : Width) (b : BitVec w.bits) (s : State) :
    Sound (PlainIp s) (DivisionFault s) NoRefusal (idivWith w b s) := by
  unfold idivWith raiseDivideByZero raiseDivisionOverflow
  split
  · exact .of_fault (.inr (.inl rfl))
  · dsimp only
    split
    · exact .of_fault (.inr (.inr rfl))
    · exact .of_next ((writePair_plain ..).trans (divFlags_plain _))

theorem shiftCarry_plain {n : Nat} (op : ShiftOp) (a r : BitVec n) (c : Nat) (cf : Bool) (s : State) :
    PlainIp s (shiftCarry op a r c cf s) := by
  unfold shiftCarry
  split
  · exact setFlags_plain ⟨rfl, rfl, rfl⟩
  · exact setFlags_drawn_plain _ (by exact ⟨rfl, rfl, rfl⟩)

theorem shiftFlags_plain {n : Nat} (op : ShiftOp) (a r : BitVec n) (c : Nat) (cf : Bool) (s : State) :
    PlainIp s (shiftFlags op a r c cf s) := by
  unfold shiftFlags
  split
  · exact (shiftCarry_plain ..).trans (setFlags_drawn_plain _ (by exact ⟨rfl, rfl, rfl⟩))
  · exact shiftCarry_plain ..

theorem shiftRm_ordinary (op : ShiftOp) (w : Width) (d : Rm) (raw : Byte) (s : State) :
    Ordinary (RmRefusal d s) s (shiftRm op w d raw s) := by
  refine (rmRead_sound ..).chain fun a _ => ?_
  dsimp only
  split
  · exact .of_next (.refl s)
  · exact (rmWrite_sound ..).chain fun t ht => .of_next (ht.trans (shiftFlags_plain ..))

/-! ## The stack, STOS -/

theorem push_ordinary (w : Width) (v : BitVec w.bits) (s : State) : Ordinary NoRefusal s (push w v s) := by
  refine ((store_sound w _ v (s.setReg esp (s.reg esp - BitVec.ofNat 32 w.bytes))).mono (fun t h => ?_) (fun r h => h)
    fun r h => h)
  exact (setReg_plain ..).trans ⟨h.plain, h.ip⟩

theorem pop_sound (w : Width) (s : State) :
    Sound (fun p : BitVec w.bits × State => PlainIp s p.2) (OobTrue s) NoRefusal (pop w s) :=
  (load_sound ..).chain fun _ _ => .of_next (setReg_plain ..)

/-- What is sound for a state is sound for an earlier one that it keeps. -/
theorem Ordinary.after {R R' : Refusal → Prop} {s t : State} {o : Out State} (h : PlainIp s t) (g : Ordinary R t o)
    (hR : ∀ r, R r → R' r) : Ordinary R' s o := by
  refine Sound.mono g (fun u hu => h.trans hu) ?_ hR
  rintro r ⟨addr, n, dir, h1, h2, h3⟩
  exact ⟨addr, n, dir, by rw [h1, h.1.ipStart], by rw [← h.1.capacity]; exact h2, h3⟩

/-- A later state refuses an operand as the earlier one it keeps does. -/
theorem RmRefusal.of_plain {d : Rm} {s t : State} {r : Refusal} (h : PlainIp s t) (g : RmRefusal d t r) :
    RmRefusal d s r := ⟨by rw [← h.1.pfx]; exact g.1, g.2⟩

theorem stosOnce_ordinary (w : Width) (s : State) : Ordinary NoRefusal s (stosOnce w s) :=
  (store_sound ..).chain fun _ ht => .of_next (PlainIp.trans ⟨ht.plain, ht.ip⟩ (setReg_plain ..))

theorem stosRepeat_ordinary (w : Width) (n : Nat) (s : State) : Ordinary NoRefusal s (stosRepeat w n s) := by
  induction n generalizing s with
  | zero => exact .of_next (.refl s)
  | succ k ih =>
    exact Sound.chain (stosOnce_ordinary w s) fun t ht => Ordinary.after (ht.trans (setReg_plain ..)) (ih _) fun _ => id

end Sys2Proof.Machine
end

