-- ==== Sys2Proof/Tests/Slice0.lean ====
section
/-! SUPPORT. Tests: what WellFormed refuses, a written-out word for every constructor, one step for the instructions of
each family with results from spec/95_test_vectors.md, and a witness for the hypotheses of every obligation. -/

open Sys2Proof Sys2Proof.Machine

/-! ## Ill-formed terms are refused, one for each check of WellFormed -/

theorem test_wf_refuses_base_sib : (Instr.notRmv (.mem (.base 4))).wf .default = false := by decide
theorem test_wf_refuses_base_disp32 : (Instr.notRmv (.mem (.base 5))).wf .default = false := by decide
theorem test_wf_refuses_baseDisp8_sib : (Instr.lea 0 (.baseDisp8 4 1)).wf .default = false := by decide
theorem test_wf_refuses_baseDisp32_sib : (Instr.popRmv 0 (.mem (.baseDisp32 4 1))).wf .default = false := by decide
theorem test_wf_refuses_addr16 :
    [MemOperand.base 3, .disp32 0, .baseDisp8 3 0, .baseDisp32 3 0, .sib 0 0 0, .sibDisp8 0 0 0 0, .sibDisp32 0 0 0 0].all
      (fun o => !(Instr.movRvRmv 0 (.mem o)).wf { os32 := true, as32 := false, opovr := false }) = true := by decide
theorem test_wf_refuses_long_immediate : (Instr.addEaxImmv 0x10000).wf .opsize16 = false := by decide
theorem test_wf_refuses_opsize16_transfer :
    (Instr.jmpRel8 0).wf .opsize16 = false ∧ (Instr.jeRel32 0).wf .opsize16 = false := by decide

/-! ## Decoding: the words are written out from 30_encoding.md R120 to R134 and R105 to R108 -/

/-- Whether the bytes decode to the instruction, with their length. -/
def decodesTo (m : DecodeMode) (bs : List Byte) (i : Instr) : Bool :=
  decide (decodeBytes m bs = if i.isPfxByte then .pfxByte i else .ok i bs.length)

/-- Rules R212 to R219 for the meanings; the words are those of 30_encoding.md. -/
theorem test_decode_add :
    (decodesTo .default [0x00, 0xCE] (.addRm8R8 (.reg 6) 1) &&
      decodesTo .default [0x01, 0x23] (.addRmvRv (.mem (.base 3)) 4) &&
      decodesTo .default [0x02, 0x7D, 0x81] (.addR8Rm8 7 (.mem (.baseDisp8 5 0x81))) &&
      decodesTo .default [0x03, 0x91, 0x78, 0x56, 0x34, 0x12] (.addRvRmv 2 (.mem (.baseDisp32 1 0x12345678))) &&
      decodesTo .default [0x04, 0x9C] (.addAlImm8 0x9C) &&
      decodesTo .default [0x05, 0x21, 0x43, 0x65, 0x87] (.addEaxImmv 0x87654321) &&
      decodesTo .default [0x81, 0x05, 0x78, 0x56, 0x34, 0x12, 0x21, 0x43, 0x65, 0x87] (.addRmvImmv (.mem (.disp32 0x12345678)) 0x87654321) &&
      decodesTo .default [0x83, 0x04, 0xB3, 0x9C] (.addRmvImm8s (.mem (.sib 2 6 3)) 0x9C)) = true := by decide

/-- Rules R220 to R227 for the meanings; the words are those of 30_encoding.md. -/
theorem test_decode_or :
    (decodesTo .default [0x08, 0x4C, 0x4C, 0xFE] (.orRm8R8 (.mem (.sibDisp8 1 1 4 0xFE)) 1) &&
      decodesTo .default [0x09, 0xA4, 0xE5, 0xF0, 0xFF, 0xFF, 0xFF] (.orRmvRv (.mem (.sibDisp32 3 4 5 0xFFFFFFF0)) 4) &&
      decodesTo .default [0x0A, 0xFE] (.orR8Rm8 7 (.reg 6)) &&
      decodesTo .default [0x0B, 0x13] (.orRvRmv 2 (.mem (.base 3))) &&
      decodesTo .default [0x0C, 0x9C] (.orAlImm8 0x9C) &&
      decodesTo .default [0x0D, 0x21, 0x43, 0x65, 0x87] (.orEaxImmv 0x87654321) &&
      decodesTo .default [0x81, 0x4D, 0x81, 0x21, 0x43, 0x65, 0x87] (.orRmvImmv (.mem (.baseDisp8 5 0x81)) 0x87654321) &&
      decodesTo .default [0x83, 0x89, 0x78, 0x56, 0x34, 0x12, 0x9C] (.orRmvImm8s (.mem (.baseDisp32 1 0x12345678)) 0x9C)) = true := by decide

/-- Rules R228 to R235 for the meanings; the words are those of 30_encoding.md. -/
theorem test_decode_and :
    (decodesTo .default [0x20, 0x0D, 0x78, 0x56, 0x34, 0x12] (.andRm8R8 (.mem (.disp32 0x12345678)) 1) &&
      decodesTo .default [0x21, 0x24, 0xB3] (.andRmvRv (.mem (.sib 2 6 3)) 4) &&
      decodesTo .default [0x22, 0x7C, 0x4C, 0xFE] (.andR8Rm8 7 (.mem (.sibDisp8 1 1 4 0xFE))) &&
      decodesTo .default [0x23, 0x94, 0xE5, 0xF0, 0xFF, 0xFF, 0xFF] (.andRvRmv 2 (.mem (.sibDisp32 3 4 5 0xFFFFFFF0))) &&
      decodesTo .default [0x24, 0x9C] (.andAlImm8 0x9C) &&
      decodesTo .default [0x25, 0x21, 0x43, 0x65, 0x87] (.andEaxImmv 0x87654321) &&
      decodesTo .default [0x81, 0xE6, 0x21, 0x43, 0x65, 0x87] (.andRmvImmv (.reg 6) 0x87654321) &&
      decodesTo .default [0x83, 0x23, 0x9C] (.andRmvImm8s (.mem (.base 3)) 0x9C)) = true := by decide

/-- Rules R236 to R243 for the meanings; the words are those of 30_encoding.md. -/
theorem test_decode_sub :
    (decodesTo .default [0x28, 0x4D, 0x81] (.subRm8R8 (.mem (.baseDisp8 5 0x81)) 1) &&
      decodesTo .default [0x29, 0xA1, 0x78, 0x56, 0x34, 0x12] (.subRmvRv (.mem (.baseDisp32 1 0x12345678)) 4) &&
      decodesTo .default [0x2A, 0x3D, 0x78, 0x56, 0x34, 0x12] (.subR8Rm8 7 (.mem (.disp32 0x12345678))) &&
      decodesTo .default [0x2B, 0x14, 0xB3] (.subRvRmv 2 (.mem (.sib 2 6 3))) &&
      decodesTo .default [0x2C, 0x9C] (.subAlImm8 0x9C) &&
      decodesTo .default [0x2D, 0x21, 0x43, 0x65, 0x87] (.subEaxImmv 0x87654321) &&
      decodesTo .default [0x81, 0x6C, 0x4C, 0xFE, 0x21, 0x43, 0x65, 0x87] (.subRmvImmv (.mem (.sibDisp8 1 1 4 0xFE)) 0x87654321) &&
      decodesTo .default [0x83, 0xAC, 0xE5, 0xF0, 0xFF, 0xFF, 0xFF, 0x9C] (.subRmvImm8s (.mem (.sibDisp32 3 4 5 0xFFFFFFF0)) 0x9C)) = true := by decide

/-- Rules R244 to R251 for the meanings; the words are those of 30_encoding.md. -/
theorem test_decode_xor :
    (decodesTo .default [0x30, 0xCE] (.xorRm8R8 (.reg 6) 1) &&
      decodesTo .default [0x31, 0x23] (.xorRmvRv (.mem (.base 3)) 4) &&
      decodesTo .default [0x32, 0x7D, 0x81] (.xorR8Rm8 7 (.mem (.baseDisp8 5 0x81))) &&
      decodesTo .default [0x33, 0x91, 0x78, 0x56, 0x34, 0x12] (.xorRvRmv 2 (.mem (.baseDisp32 1 0x12345678))) &&
      decodesTo .default [0x34, 0x9C] (.xorAlImm8 0x9C) &&
      decodesTo .default [0x35, 0x21, 0x43, 0x65, 0x87] (.xorEaxImmv 0x87654321) &&
      decodesTo .default [0x81, 0x35, 0x78, 0x56, 0x34, 0x12, 0x21, 0x43, 0x65, 0x87] (.xorRmvImmv (.mem (.disp32 0x12345678)) 0x87654321) &&
      decodesTo .default [0x83, 0x34, 0xB3, 0x9C] (.xorRmvImm8s (.mem (.sib 2 6 3)) 0x9C)) = true := by decide

/-- Rules R252 to R259 for the meanings; the words are those of 30_encoding.md. -/
theorem test_decode_cmp :
    (decodesTo .default [0x38, 0x4C, 0x4C, 0xFE] (.cmpRm8R8 (.mem (.sibDisp8 1 1 4 0xFE)) 1) &&
      decodesTo .default [0x39, 0xA4, 0xE5, 0xF0, 0xFF, 0xFF, 0xFF] (.cmpRmvRv (.mem (.sibDisp32 3 4 5 0xFFFFFFF0)) 4) &&
      decodesTo .default [0x3A, 0xFE] (.cmpR8Rm8 7 (.reg 6)) &&
      decodesTo .default [0x3B, 0x13] (.cmpRvRmv 2 (.mem (.base 3))) &&
      decodesTo .default [0x3C, 0x9C] (.cmpAlImm8 0x9C) &&
      decodesTo .default [0x3D, 0x21, 0x43, 0x65, 0x87] (.cmpEaxImmv 0x87654321) &&
      decodesTo .default [0x81, 0x7D, 0x81, 0x21, 0x43, 0x65, 0x87] (.cmpRmvImmv (.mem (.baseDisp8 5 0x81)) 0x87654321) &&
      decodesTo .default [0x83, 0xB9, 0x78, 0x56, 0x34, 0x12, 0x9C] (.cmpRmvImm8s (.mem (.baseDisp32 1 0x12345678)) 0x9C)) = true := by decide

/-- Rules R260 to R264 for the meanings; the words are those of 30_encoding.md. -/
theorem test_decode_test :
    (decodesTo .default [0x84, 0x0D, 0x78, 0x56, 0x34, 0x12] (.testRm8R8 (.mem (.disp32 0x12345678)) 1) &&
      decodesTo .default [0x85, 0x24, 0xB3] (.testRmvRv (.mem (.sib 2 6 3)) 4) &&
      decodesTo .default [0xA8, 0x9C] (.testAlImm8 0x9C) &&
      decodesTo .default [0xA9, 0x21, 0x43, 0x65, 0x87] (.testEaxImmv 0x87654321) &&
      decodesTo .default [0xF7, 0x44, 0x4C, 0xFE, 0x21, 0x43, 0x65, 0x87] (.testRmvImmv (.mem (.sibDisp8 1 1 4 0xFE)) 0x87654321)) = true := by decide

/-- Rules R268 to R295 for the meanings; the words are those of 30_encoding.md. -/
theorem test_decode_unary :
    (decodesTo .default [0xF7, 0x94, 0xE5, 0xF0, 0xFF, 0xFF, 0xFF] (.notRmv (.mem (.sibDisp32 3 4 5 0xFFFFFFF0))) &&
      decodesTo .default [0xF7, 0xDE] (.negRmv (.reg 6)) &&
      decodesTo .default [0xF7, 0x23] (.mulRmv (.mem (.base 3))) &&
      decodesTo .default [0xF7, 0x6D, 0x81] (.imulRmv (.mem (.baseDisp8 5 0x81))) &&
      decodesTo .default [0xF7, 0xB1, 0x78, 0x56, 0x34, 0x12] (.divRmv (.mem (.baseDisp32 1 0x12345678))) &&
      decodesTo .default [0xF7, 0x3D, 0x78, 0x56, 0x34, 0x12] (.idivRmv (.mem (.disp32 0x12345678))) &&
      decodesTo .default [0x42] (.incRv 2) &&
      decodesTo .default [0xFF, 0x04, 0xB3] (.incRmv (.mem (.sib 2 6 3))) &&
      decodesTo .default [0x48] (.decRv 0) &&
      decodesTo .default [0xFF, 0x4C, 0x4C, 0xFE] (.decRmv (.mem (.sibDisp8 1 1 4 0xFE)))) = true := by decide

/-- Rule R314; the words are those of 30_encoding.md. -/
theorem test_decode_rol :
    (decodesTo .default [0xC1, 0x84, 0xE5, 0xF0, 0xFF, 0xFF, 0xFF, 0x9C] (.rolRmvImm8 (.mem (.sibDisp32 3 4 5 0xFFFFFFF0)) 0x9C) &&
      decodesTo .default [0xD1, 0xC6] (.rolRmvOne (.reg 6)) &&
      decodesTo .default [0xD3, 0x03] (.rolRmvCl (.mem (.base 3)))) = true := by decide

/-- Rule R315; the words are those of 30_encoding.md. -/
theorem test_decode_ror :
    (decodesTo .default [0xC1, 0x4D, 0x81, 0x9C] (.rorRmvImm8 (.mem (.baseDisp8 5 0x81)) 0x9C) &&
      decodesTo .default [0xD1, 0x89, 0x78, 0x56, 0x34, 0x12] (.rorRmvOne (.mem (.baseDisp32 1 0x12345678))) &&
      decodesTo .default [0xD3, 0x0D, 0x78, 0x56, 0x34, 0x12] (.rorRmvCl (.mem (.disp32 0x12345678)))) = true := by decide

/-- Rule R316; the words are those of 30_encoding.md. -/
theorem test_decode_rcl :
    (decodesTo .default [0xC1, 0x14, 0xB3, 0x9C] (.rclRmvImm8 (.mem (.sib 2 6 3)) 0x9C) &&
      decodesTo .default [0xD1, 0x54, 0x4C, 0xFE] (.rclRmvOne (.mem (.sibDisp8 1 1 4 0xFE))) &&
      decodesTo .default [0xD3, 0x94, 0xE5, 0xF0, 0xFF, 0xFF, 0xFF] (.rclRmvCl (.mem (.sibDisp32 3 4 5 0xFFFFFFF0)))) = true := by decide

/-- Rule R317; the words are those of 30_encoding.md. -/
theorem test_decode_rcr :
    (decodesTo .default [0xC1, 0xDE, 0x9C] (.rcrRmvImm8 (.reg 6) 0x9C) &&
      decodesTo .default [0xD1, 0x1B] (.rcrRmvOne (.mem (.base 3))) &&
      decodesTo .default [0xD3, 0x5D, 0x81] (.rcrRmvCl (.mem (.baseDisp8 5 0x81)))) = true := by decide

/-- Rule R318; the words are those of 30_encoding.md. -/
theorem test_decode_shl :
    (decodesTo .default [0xC1, 0xA1, 0x78, 0x56, 0x34, 0x12, 0x9C] (.shlRmvImm8 (.mem (.baseDisp32 1 0x12345678)) 0x9C) &&
      decodesTo .default [0xD1, 0x25, 0x78, 0x56, 0x34, 0x12] (.shlRmvOne (.mem (.disp32 0x12345678))) &&
      decodesTo .default [0xD3, 0x24, 0xB3] (.shlRmvCl (.mem (.sib 2 6 3)))) = true := by decide

/-- Rule R319; the words are those of 30_encoding.md. -/
theorem test_decode_shr :
    (decodesTo .default [0xC1, 0x6C, 0x4C, 0xFE, 0x9C] (.shrRmvImm8 (.mem (.sibDisp8 1 1 4 0xFE)) 0x9C) &&
      decodesTo .default [0xD1, 0xAC, 0xE5, 0xF0, 0xFF, 0xFF, 0xFF] (.shrRmvOne (.mem (.sibDisp32 3 4 5 0xFFFFFFF0))) &&
      decodesTo .default [0xD3, 0xEE] (.shrRmvCl (.reg 6))) = true := by decide

/-- Rule R320; the words are those of 30_encoding.md. -/
theorem test_decode_sar :
    (decodesTo .default [0xC1, 0x3B, 0x9C] (.sarRmvImm8 (.mem (.base 3)) 0x9C) &&
      decodesTo .default [0xD1, 0x7D, 0x81] (.sarRmvOne (.mem (.baseDisp8 5 0x81))) &&
      decodesTo .default [0xD3, 0xB9, 0x78, 0x56, 0x34, 0x12] (.sarRmvCl (.mem (.baseDisp32 1 0x12345678)))) = true := by decide

/-- Rules R351 to R358 for the meanings; the words are those of 30_encoding.md. -/
theorem test_decode_mov :
    (decodesTo .default [0x88, 0x2D, 0x78, 0x56, 0x34, 0x12] (.movRm8R8 (.mem (.disp32 0x12345678)) 5) &&
      decodesTo .default [0x89, 0x04, 0xB3] (.movRmvRv (.mem (.sib 2 6 3)) 0) &&
      decodesTo .default [0x8A, 0x5C, 0x4C, 0xFE] (.movR8Rm8 3 (.mem (.sibDisp8 1 1 4 0xFE))) &&
      decodesTo .default [0x8B, 0xB4, 0xE5, 0xF0, 0xFF, 0xFF, 0xFF] (.movRvRmv 6 (.mem (.sibDisp32 3 4 5 0xFFFFFFF0))) &&
      decodesTo .default [0xB1, 0x9C] (.movR8Imm8 1 0x9C) &&
      decodesTo .default [0xBC, 0x21, 0x43, 0x65, 0x87] (.movRvImmv 4 0x87654321) &&
      decodesTo .default [0xC6, 0xFE, 0x9C] (.movRm8Imm8 7 (.reg 6) 0x9C) &&
      decodesTo .default [0xC7, 0x13, 0x21, 0x43, 0x65, 0x87] (.movRmvImmv 2 (.mem (.base 3)) 0x87654321)) = true := by decide

/-- Rules R359 to R382 for the meanings; the words are those of 30_encoding.md. -/
theorem test_decode_lea_stack :
    (decodesTo .default [0x8D, 0x2C, 0xB3] (.lea 5 (.sib 2 6 3)) &&
      decodesTo .default [0x50] (.pushRv 0) &&
      decodesTo .default [0x68, 0x21, 0x43, 0x65, 0x87] (.pushImmv 0x87654321) &&
      decodesTo .default [0x6A, 0x9C] (.pushImm8s 0x9C) &&
      decodesTo .default [0xFF, 0x75, 0x81] (.pushRmv (.mem (.baseDisp8 5 0x81))) &&
      decodesTo .default [0x5C] (.popRv 4) &&
      decodesTo .default [0x8F, 0xB9, 0x78, 0x56, 0x34, 0x12] (.popRmv 7 (.mem (.baseDisp32 1 0x12345678))) &&
      decodesTo .default [0xC9] (.leave)) = true := by decide

/-- Rules R391 to R459 for the meanings; the words are those of 30_encoding.md. -/
theorem test_decode_transfer_io :
    (decodesTo .default [0xEB, 0x9C] (.jmpRel8 0x9C) &&
      decodesTo .default [0xE9, 0x21, 0x43, 0x65, 0x87] (.jmpRel32 0x87654321) &&
      decodesTo .default [0xE8, 0x21, 0x43, 0x65, 0x87] (.callRel32 0x87654321) &&
      decodesTo .default [0xFF, 0x15, 0x78, 0x56, 0x34, 0x12] (.callRm32 (.mem (.disp32 0x12345678))) &&
      decodesTo .default [0xC3] (.ret) &&
      decodesTo .default [0xCD, 0x9C] (.intImm8 0x9C) &&
      decodesTo .default [0xAB] (.stos) &&
      decodesTo .default [0xE4, 0x9C] (.inAlImm8 0x9C) &&
      decodesTo .default [0xEC] (.inAlDx) &&
      decodesTo .default [0xE6, 0x9C] (.outImm8Al 0x9C) &&
      decodesTo .default [0xEE] (.outDxAl)) = true := by decide

/-- Rules R394 to R409 for the meanings; the words are those of 30_encoding.md. -/
theorem test_decode_jcc_rel8 :
    (decodesTo .default [0x70, 0x9C] (.joRel8 0x9C) &&
      decodesTo .default [0x71, 0x9C] (.jnoRel8 0x9C) &&
      decodesTo .default [0x72, 0x9C] (.jbRel8 0x9C) &&
      decodesTo .default [0x73, 0x9C] (.jaeRel8 0x9C) &&
      decodesTo .default [0x74, 0x9C] (.jeRel8 0x9C) &&
      decodesTo .default [0x75, 0x9C] (.jneRel8 0x9C) &&
      decodesTo .default [0x76, 0x9C] (.jbeRel8 0x9C) &&
      decodesTo .default [0x77, 0x9C] (.jaRel8 0x9C) &&
      decodesTo .default [0x78, 0x9C] (.jsRel8 0x9C) &&
      decodesTo .default [0x79, 0x9C] (.jnsRel8 0x9C) &&
      decodesTo .default [0x7A, 0x9C] (.jpRel8 0x9C) &&
      decodesTo .default [0x7B, 0x9C] (.jnpRel8 0x9C) &&
      decodesTo .default [0x7C, 0x9C] (.jlRel8 0x9C) &&
      decodesTo .default [0x7D, 0x9C] (.jgeRel8 0x9C) &&
      decodesTo .default [0x7E, 0x9C] (.jleRel8 0x9C) &&
      decodesTo .default [0x7F, 0x9C] (.jgRel8 0x9C)) = true := by decide

/-- Rules R394 to R409 for the meanings; the words are those of 30_encoding.md. -/
theorem test_decode_jcc_rel32 :
    (decodesTo .default [0x0F, 0x80, 0x21, 0x43, 0x65, 0x87] (.joRel32 0x87654321) &&
      decodesTo .default [0x0F, 0x81, 0x21, 0x43, 0x65, 0x87] (.jnoRel32 0x87654321) &&
      decodesTo .default [0x0F, 0x82, 0x21, 0x43, 0x65, 0x87] (.jbRel32 0x87654321) &&
      decodesTo .default [0x0F, 0x83, 0x21, 0x43, 0x65, 0x87] (.jaeRel32 0x87654321) &&
      decodesTo .default [0x0F, 0x84, 0x21, 0x43, 0x65, 0x87] (.jeRel32 0x87654321) &&
      decodesTo .default [0x0F, 0x85, 0x21, 0x43, 0x65, 0x87] (.jneRel32 0x87654321) &&
      decodesTo .default [0x0F, 0x86, 0x21, 0x43, 0x65, 0x87] (.jbeRel32 0x87654321) &&
      decodesTo .default [0x0F, 0x87, 0x21, 0x43, 0x65, 0x87] (.jaRel32 0x87654321) &&
      decodesTo .default [0x0F, 0x88, 0x21, 0x43, 0x65, 0x87] (.jsRel32 0x87654321) &&
      decodesTo .default [0x0F, 0x89, 0x21, 0x43, 0x65, 0x87] (.jnsRel32 0x87654321) &&
      decodesTo .default [0x0F, 0x8A, 0x21, 0x43, 0x65, 0x87] (.jpRel32 0x87654321) &&
      decodesTo .default [0x0F, 0x8B, 0x21, 0x43, 0x65, 0x87] (.jnpRel32 0x87654321) &&
      decodesTo .default [0x0F, 0x8C, 0x21, 0x43, 0x65, 0x87] (.jlRel32 0x87654321) &&
      decodesTo .default [0x0F, 0x8D, 0x21, 0x43, 0x65, 0x87] (.jgeRel32 0x87654321) &&
      decodesTo .default [0x0F, 0x8E, 0x21, 0x43, 0x65, 0x87] (.jleRel32 0x87654321) &&
      decodesTo .default [0x0F, 0x8F, 0x21, 0x43, 0x65, 0x87] (.jgRel32 0x87654321)) = true := by decide

/-- Rule R134; the words are those of 30_encoding.md. -/
theorem test_decode_prefix_bytes :
    (decodesTo .default [0x26] (.segEs) &&
      decodesTo .default [0x2E] (.segCs) &&
      decodesTo .default [0x36] (.segSs) &&
      decodesTo .default [0x3E] (.segDs) &&
      decodesTo .default [0x64] (.segFs) &&
      decodesTo .default [0x65] (.segGs) &&
      decodesTo .default [0x66] (.opSize) &&
      decodesTo .default [0x67] (.addrSize) &&
      decodesTo .default [0xF0] (.lock) &&
      decodesTo .default [0xF2] (.repnz) &&
      decodesTo .default [0xF3] (.repz)) = true := by decide

/-! ## One step, with the start and end states of spec/95_test_vectors.md -/

/-- The launch state of 95_test_vectors.md with bytes of memory, registers and FLAGS given. -/
def vectorState (capacity : Nat) (regs : List Word) (flags : Word) (cells : List (Nat × List Byte)) : State :=
  cells.foldl (fun s c => s.placeBytes c.1 c.2)
    (.launch capacity #v[regs.getD 0 0, regs.getD 1 0, regs.getD 2 0, regs.getD 3 0, regs.getD 4 0, regs.getD 5 0,
      regs.getD 6 0, regs.getD 7 0] (.ofWord flags) 0x1000)

/-- Whether the flags at the EFLAGS positions of the mask are those of the word; a flag outside the mask may be anything. -/
def flagsUnder (f : Flags) (mask flags : Word) : Bool :=
  [(0, f.cf), (2, f.pf), (4, f.af), (6, f.zf), (7, f.sf), (8, f.tf), (9, f.ifl), (10, f.df), (11, f.ofl)].all fun p =>
    !mask.getLsbD p.1 || p.2 == flags.getLsbD p.1

/-- Whether a step ends in these registers, this IP, these flags under a mask, this PFX and these bytes of memory. -/
def stepsTo (s : State) (regs : List Word) (ip flagMask flags : Word) (pfx : BitVec 13) (cells : List (Nat × List Byte)) :
    Bool :=
  match step s with
  | .next t =>
    decide (t.regs.toList = regs) && decide (t.ip = ip) && flagsUnder t.flags flagMask flags &&
      decide (t.pfx.toBits = pfx) && cells.all fun c => decide (t.mem.bytes c.1 c.2.length = c.2)
  | .fault _ => false
  | .refused _ => false

/-- Whether an outcome is a next state. -/
def completes (o : Out State) : Bool :=
  match o with
  | .next _ => true
  | .fault _ => false
  | .refused _ => false

/-- Whether an outcome is this fault. -/
def faultsWith (o : Out State) (r : Fault) : Bool :=
  match o with
  | .next _ => false
  | .fault r' => decide (r' = r)
  | .refused _ => false

/-- Whether an outcome is this refusal. -/
def refusedWith (o : Out State) (r : Refusal) : Bool :=
  match o with
  | .next _ => false
  | .fault _ => false
  | .refused r' => decide (r' = r)


/-- 95_test_vectors.md V78, rules R212, R151, R24. -/
theorem test_V78 :
    stepsTo (vectorState Config.defaultCapacity [0x7F00, 0, 0, 0x11223381, 0x8000, 0, 0, 0] 0 [(0x1000, [0x00, 0xE3])])
      [0x7F00, 0, 0, 0x11223300, 0x8000, 0, 0, 0] 0x1002 0xFD5 0x55 0x1800 [] = true := by decide

/-- 95_test_vectors.md V79, rules R213, R151. -/
theorem test_V79 :
    stepsTo (vectorState Config.defaultCapacity [0, 0x80000001, 0, 0x2000, 0x8000, 0, 0, 0] 0 [(0x1000, [0x01, 0x0B]), (0x2000, [0xFF, 0xFF, 0xFF, 0x7F])])
      [0, 0x80000001, 0, 0x2000, 0x8000, 0, 0, 0] 0x1002 0xFD5 0x55 0x1800 [(0x2000, [0x00, 0x00, 0x00, 0x00])] = true := by decide

/-- 95_test_vectors.md V80, rules R214, R151. -/
theorem test_V80 :
    stepsTo (vectorState Config.defaultCapacity [0x1F0, 0, 0, 0x2000, 0x8000, 0, 0, 0] 0 [(0x1000, [0x02, 0x43, 0x01]), (0x2000, [0x00, 0x0F])])
      [0x1FF, 0, 0, 0x2000, 0x8000, 0, 0, 0] 0x1003 0xFD5 0x84 0x1800 [] = true := by decide

/-- 95_test_vectors.md V81, rules R215, R151, R23. -/
theorem test_V81 :
    stepsTo (vectorState Config.defaultCapacity [0xAAAA8000, 0xBBBB8000, 0, 0, 0x8000, 0, 0, 0] 0 [(0x1000, [0x66, 0x03, 0xC1])])
      [0xAAAA0000, 0xBBBB8000, 0, 0, 0x8000, 0, 0, 0] 0x1003 0xFD5 0x845 0x1800 [] = true := by decide

/-- 95_test_vectors.md V82, rules R216, R151. -/
theorem test_V82 :
    stepsTo (vectorState Config.defaultCapacity [0x12345680, 0, 0, 0, 0x8000, 0, 0, 0] 0 [(0x1000, [0x04, 0x80])])
      [0x12345600, 0, 0, 0, 0x8000, 0, 0, 0] 0x1002 0xFD5 0x845 0x1800 [] = true := by decide

/-- 95_test_vectors.md V83, rules R217, R151. -/
theorem test_V83 :
    stepsTo (vectorState Config.defaultCapacity [0x80000000, 0, 0, 0, 0x8000, 0, 0, 0] 0 [(0x1000, [0x05, 0x01, 0x00, 0x00, 0x80])])
      [1, 0, 0, 0, 0x8000, 0, 0, 0] 0x1005 0xFD5 0x801 0x1800 [] = true := by decide

/-- 95_test_vectors.md V84, rules R218, R151, R472. -/
theorem test_V84 :
    stepsTo (vectorState Config.defaultCapacity [0, 0, 0, 0xF0F0F1F, 0x8000, 0, 0, 0] 0 [(0x1000, [0x81, 0xC3, 0xF0, 0xF0, 0xF0, 0xF0])])
      [0, 0, 0, 0xF, 0x8000, 0, 0, 0] 0x1006 0xFD5 5 0x1800 [] = true := by decide

/-- 95_test_vectors.md V85, rules R219, R151, R108. -/
theorem test_V85 :
    stepsTo (vectorState Config.defaultCapacity [0, 0, 0, 0, 0x8000, 0, 0x2000, 0] 0 [(0x1000, [0x83, 0x06, 0xFF]), (0x2000, [0x01, 0x00, 0x00, 0x00])])
      [0, 0, 0, 0, 0x8000, 0, 0x2000, 0] 0x1003 0xFD5 0x55 0x1800 [(0x2000, [0x00, 0x00, 0x00, 0x00])] = true := by decide

/-- 95_test_vectors.md V93, rules R227, R154, R108. -/
theorem test_V93 :
    stepsTo (vectorState Config.defaultCapacity [0, 0, 0, 0, 0x8000, 0, 0x2000, 0] 0 [(0x1000, [0x83, 0x0E, 0xFF]), (0x2000, [0x01, 0x00, 0x00, 0x00])])
      [0, 0, 0, 0, 0x8000, 0, 0x2000, 0] 0x1003 0xFD5 0x84 0x1800 [(0x2000, [0xFF, 0xFF, 0xFF, 0xFF])] = true := by decide

/-- 95_test_vectors.md V89, rules R223, R154, R23. -/
theorem test_V89 :
    stepsTo (vectorState Config.defaultCapacity [0xAAAA8000, 0xBBBB8000, 0, 0, 0x8000, 0, 0, 0] 0 [(0x1000, [0x66, 0x0B, 0xC1])])
      [0xAAAA8000, 0xBBBB8000, 0, 0, 0x8000, 0, 0, 0] 0x1003 0xFD5 0x84 0x1800 [] = true := by decide

/-- 95_test_vectors.md V94, rules R228, R154, R24. -/
theorem test_V94 :
    stepsTo (vectorState Config.defaultCapacity [0x7F00, 0, 0, 0x11223381, 0x8000, 0, 0, 0] 0 [(0x1000, [0x20, 0xE3])])
      [0x7F00, 0, 0, 0x11223301, 0x8000, 0, 0, 0] 0x1002 0xFD5 0 0x1800 [] = true := by decide

/-- 95_test_vectors.md V100, rules R234, R154, R472. -/
theorem test_V100 :
    stepsTo (vectorState Config.defaultCapacity [0, 0, 0, 0xF0F0F1F, 0x8000, 0, 0, 0] 0 [(0x1000, [0x81, 0xE3, 0xF0, 0xF0, 0xF0, 0xF0])])
      [0, 0, 0, 0x10, 0x8000, 0, 0, 0] 0x1006 0xFD5 0 0x1800 [] = true := by decide

/-- 95_test_vectors.md V102, rules R236, R152, R24. -/
theorem test_V102 :
    stepsTo (vectorState Config.defaultCapacity [0x7F00, 0, 0, 0x11223381, 0x8000, 0, 0, 0] 0 [(0x1000, [0x28, 0xE3])])
      [0x7F00, 0, 0, 0x11223302, 0x8000, 0, 0, 0] 0x1002 0xFD5 0x810 0x1800 [] = true := by decide

/-- 95_test_vectors.md V107, rules R241, R152. -/
theorem test_V107 :
    stepsTo (vectorState Config.defaultCapacity [0x80000000, 0, 0, 0, 0x8000, 0, 0, 0] 0 [(0x1000, [0x2D, 0x01, 0x00, 0x00, 0x80])])
      [0xFFFFFFFF, 0, 0, 0, 0x8000, 0, 0, 0] 0x1005 0xFD5 0x95 0x1800 [] = true := by decide

/-- 95_test_vectors.md V109, rules R243, R152, R108. -/
theorem test_V109 :
    stepsTo (vectorState Config.defaultCapacity [0, 0, 0, 0, 0x8000, 0, 0x2000, 0] 0 [(0x1000, [0x83, 0x2E, 0xFF]), (0x2000, [0x01, 0x00, 0x00, 0x00])])
      [0, 0, 0, 0, 0x8000, 0, 0x2000, 0] 0x1003 0xFD5 0x11 0x1800 [(0x2000, [0x02, 0x00, 0x00, 0x00])] = true := by decide

/-- 95_test_vectors.md V113, rules R247, R154, R23. -/
theorem test_V113 :
    stepsTo (vectorState Config.defaultCapacity [0xAAAA8000, 0xBBBB8000, 0, 0, 0x8000, 0, 0, 0] 0 [(0x1000, [0x66, 0x33, 0xC1])])
      [0xAAAA0000, 0xBBBB8000, 0, 0, 0x8000, 0, 0, 0] 0x1003 0xFD5 0x44 0x1800 [] = true := by decide

/-- 95_test_vectors.md V117, rules R251, R154, R108. -/
theorem test_V117 :
    stepsTo (vectorState Config.defaultCapacity [0, 0, 0, 0, 0x8000, 0, 0x2000, 0] 0 [(0x1000, [0x83, 0x36, 0xFF]), (0x2000, [0x01, 0x00, 0x00, 0x00])])
      [0, 0, 0, 0, 0x8000, 0, 0x2000, 0] 0x1003 0xFD5 0x80 0x1800 [(0x2000, [0xFE, 0xFF, 0xFF, 0xFF])] = true := by decide

/-- 95_test_vectors.md V121, rules R255, R152, R23. -/
theorem test_V121 :
    stepsTo (vectorState Config.defaultCapacity [0xAAAA8000, 0xBBBB8000, 0, 0, 0x8000, 0, 0, 0] 0 [(0x1000, [0x66, 0x3B, 0xC1])])
      [0xAAAA8000, 0xBBBB8000, 0, 0, 0x8000, 0, 0, 0] 0x1003 0xFD5 0x44 0x1800 [] = true := by decide

/-- 95_test_vectors.md V125, rules R259, R152, R108. -/
theorem test_V125 :
    stepsTo (vectorState Config.defaultCapacity [0, 0, 0, 0, 0x8000, 0, 0x2000, 0] 0 [(0x1000, [0x83, 0x3E, 0xFF]), (0x2000, [0x01, 0x00, 0x00, 0x00])])
      [0, 0, 0, 0, 0x8000, 0, 0x2000, 0] 0x1003 0xFD5 0x11 0x1800 [(0x2000, [0x01, 0x00, 0x00, 0x00])] = true := by decide

/-- 95_test_vectors.md V133, rule R260. -/
theorem test_V133 :
    stepsTo (vectorState Config.defaultCapacity [0xF, 0, 0, 0xF0, 0x8000, 0, 0, 0] 0x801 [(0x1000, [0x84, 0xC3])])
      [0xF, 0, 0, 0xF0, 0x8000, 0, 0, 0] 0x1002 0xFD5 0x44 0x1800 [] = true := by decide

/-- 95_test_vectors.md V137, rule R263. -/
theorem test_V137 :
    stepsTo (vectorState Config.defaultCapacity [0x18000, 0, 0, 0, 0x8000, 0, 0, 0] 0 [(0x1000, [0x66, 0xA9, 0x00, 0x80])])
      [0x18000, 0, 0, 0, 0x8000, 0, 0, 0] 0x1004 0xFD5 0x84 0x1800 [] = true := by decide

/-- 95_test_vectors.md V138, rules R264, R472. -/
theorem test_V138 :
    stepsTo (vectorState Config.defaultCapacity [0, 0, 0, 0x1203, 0x8000, 0, 0, 0] 0 [(0x1000, [0xF7, 0xC3, 0xFF, 0x00, 0x00, 0x00])])
      [0, 0, 0, 0x1203, 0x8000, 0, 0, 0] 0x1006 0xFD5 4 0x1800 [] = true := by decide

/-- 95_test_vectors.md V141, rules R268, R23. -/
theorem test_V141 :
    stepsTo (vectorState Config.defaultCapacity [0x12345678, 0, 0, 0, 0x8000, 0, 0, 0] 0 [(0x1000, [0x66, 0xF7, 0xD0])])
      [0x1234A987, 0, 0, 0, 0x8000, 0, 0, 0] 0x1003 0xFD5 0 0x1800 [] = true := by decide

/-- 95_test_vectors.md V48, rules R269, R157. -/
theorem test_V48 :
    stepsTo (vectorState Config.defaultCapacity [0x80000000, 0, 0, 0, 0x8000, 0, 0, 0] 0 [(0x1000, [0xF7, 0xD8])])
      [0x80000000, 0, 0, 0, 0x8000, 0, 0, 0] 0x1002 0xFD5 0x885 0x1800 [] = true := by decide

/-- 95_test_vectors.md V12, rules R270, R156, R23. -/
theorem test_V12 :
    stepsTo (vectorState Config.defaultCapacity [0x12347FFF, 0, 0, 0, 0x8000, 0, 0, 0] 0 [(0x1000, [0x66, 0x40])])
      [0x12348000, 0, 0, 0, 0x8000, 0, 0, 0] 0x1002 0xFD5 0x894 0x1800 [] = true := by decide

/-- 95_test_vectors.md V147, rules R271, R156. -/
theorem test_V147 :
    stepsTo (vectorState Config.defaultCapacity [0x2000, 0, 0, 0, 0x8000, 0, 0, 0] 0 [(0x1000, [0x66, 0xFF, 0x00]), (0x2000, [0xFF, 0xFF, 0x55, 0x55])])
      [0x2000, 0, 0, 0, 0x8000, 0, 0, 0] 0x1003 0xFD5 0x54 0x1800 [(0x2000, [0x00, 0x00, 0x55, 0x55])] = true := by decide

/-- 95_test_vectors.md V50, rules R272, R156. -/
theorem test_V50 :
    stepsTo (vectorState Config.defaultCapacity [0, 0, 0, 0, 0x8000, 0, 0, 0] 0 [(0x1000, [0x48])])
      [0xFFFFFFFF, 0, 0, 0, 0x8000, 0, 0, 0] 0x1001 0xFD5 0x94 0x1800 [] = true := by decide

/-- 95_test_vectors.md V149, rules R273, R156. -/
theorem test_V149 :
    stepsTo (vectorState Config.defaultCapacity [0, 0, 0, 0x2000, 0x8000, 0, 0, 0] 0 [(0x1000, [0xFF, 0x0B]), (0x2000, [0x00, 0x00, 0x00, 0x00])])
      [0, 0, 0, 0x2000, 0x8000, 0, 0, 0] 0x1002 0xFD5 0x94 0x1800 [(0x2000, [0xFF, 0xFF, 0xFF, 0xFF])] = true := by decide

/-- 95_test_vectors.md V160, rules R291, R23. -/
theorem test_V160 :
    stepsTo (vectorState Config.defaultCapacity [0xAAAA1234, 0, 0xBBBBFFFF, 0x100, 0x8000, 0, 0, 0] 0 [(0x1000, [0x66, 0xF7, 0xE3])])
      [0xAAAA3400, 0, 0xBBBB0012, 0x100, 0x8000, 0, 0, 0] 0x1003 0xF01 0x801 0x1800 [] = true := by decide

/-- 95_test_vectors.md V163, rule R293. -/
theorem test_V163 :
    stepsTo (vectorState Config.defaultCapacity [0x7FFFFFFF, 0, 0, 2, 0x8000, 0, 0, 0] 0 [(0x1000, [0xF7, 0xEB])])
      [0xFFFFFFFE, 0, 0, 2, 0x8000, 0, 0, 0] 0x1002 0xF01 0x801 0x1800 [] = true := by decide

/-- 95_test_vectors.md V168, rule R294. -/
theorem test_V168 :
    stepsTo (vectorState Config.defaultCapacity [0xFFFFFFFF, 0, 0xFFFFFFFE, 0xFFFFFFFF, 0x8000, 0, 0, 0] 0 [(0x1000, [0xF7, 0xF3])])
      [0xFFFFFFFF, 0, 0xFFFFFFFE, 0xFFFFFFFF, 0x8000, 0, 0, 0] 0x1002 0x700 0 0x1800 [] = true := by decide

/-- 95_test_vectors.md V176, rule R295. -/
theorem test_V176 :
    stepsTo (vectorState Config.defaultCapacity [7, 0, 0, 0xFFFFFFFE, 0x8000, 0, 0, 0] 0 [(0x1000, [0xF7, 0xFB])])
      [0xFFFFFFFD, 0, 1, 0xFFFFFFFE, 0x8000, 0, 0, 0] 0x1002 0x700 0 0x1800 [] = true := by decide

/-- 95_test_vectors.md V186, rules R314, R313. -/
theorem test_V186 :
    stepsTo (vectorState Config.defaultCapacity [0x80000001, 0, 0, 0, 0x8000, 0, 0, 0] 0 [(0x1000, [0xD1, 0xC0])])
      [3, 0, 0, 0, 0x8000, 0, 0, 0] 0x1002 0xFD5 0x801 0x1800 [] = true := by decide

/-- 95_test_vectors.md V23, rules R312, R314, R322. -/
theorem test_V23 :
    stepsTo (vectorState Config.defaultCapacity [0xAAAA8001, 0, 0, 0, 0x8000, 0, 0, 0] 0 [(0x1000, [0x66, 0xC1, 0xC0, 0x10])])
      [0xAAAA8001, 0, 0, 0, 0x8000, 0, 0, 0] 0x1004 0x7D5 1 0x1800 [] = true := by decide

/-- 95_test_vectors.md V189, rules R315, R313. -/
theorem test_V189 :
    stepsTo (vectorState Config.defaultCapacity [1, 0, 0, 0, 0x8000, 0, 0, 0] 0 [(0x1000, [0xD1, 0xC8])])
      [0x80000000, 0, 0, 0, 0x8000, 0, 0, 0] 0x1002 0xFD5 0x801 0x1800 [] = true := by decide

/-- 95_test_vectors.md V24, rules R312, R315, R322. -/
theorem test_V24 :
    stepsTo (vectorState Config.defaultCapacity [0xAAAA8001, 0, 0, 0, 0x8000, 0, 0, 0] 0 [(0x1000, [0x66, 0xC1, 0xC8, 0x10])])
      [0xAAAA8001, 0, 0, 0, 0x8000, 0, 0, 0] 0x1004 0x7D5 1 0x1800 [] = true := by decide

/-- 95_test_vectors.md V192, rules R316, R313. -/
theorem test_V192 :
    stepsTo (vectorState Config.defaultCapacity [0x80000000, 0, 0, 0, 0x8000, 0, 0, 0] 1 [(0x1000, [0xD1, 0xD0])])
      [1, 0, 0, 0, 0x8000, 0, 0, 0] 0x1002 0xFD5 0x801 0x1800 [] = true := by decide

/-- 95_test_vectors.md V216, rules R316, R312. -/
theorem test_V216 :
    stepsTo (vectorState Config.defaultCapacity [0x12348001, 0, 0, 0, 0x8000, 0, 0, 0] 1 [(0x1000, [0x66, 0xC1, 0xD0, 0x11])])
      [0x12348001, 0, 0, 0, 0x8000, 0, 0, 0] 0x1004 0x7D5 1 0x1800 [] = true := by decide

/-- 95_test_vectors.md V195, rules R317, R313. -/
theorem test_V195 :
    stepsTo (vectorState Config.defaultCapacity [1, 0, 0, 0, 0x8000, 0, 0, 0] 1 [(0x1000, [0xD1, 0xD8])])
      [0x80000000, 0, 0, 0, 0x8000, 0, 0, 0] 0x1002 0xFD5 0x801 0x1800 [] = true := by decide

/-- 95_test_vectors.md V197, rule R317. -/
theorem test_V197 :
    stepsTo (vectorState Config.defaultCapacity [0x80000000, 0, 0, 0, 0x8000, 0, 0, 0] 0 [(0x1000, [0xC1, 0xD8, 0x1F])])
      [1, 0, 0, 0, 0x8000, 0, 0, 0] 0x1003 0x7D5 0 0x1800 [] = true := by decide

/-- 95_test_vectors.md V199, rules R318, R313. -/
theorem test_V199 :
    stepsTo (vectorState Config.defaultCapacity [0x40000000, 0, 0, 0, 0x8000, 0, 0, 0] 0 [(0x1000, [0xD1, 0xE0])])
      [0x80000000, 0, 0, 0, 0x8000, 0, 0, 0] 0x1002 0xFC5 0x884 0x1800 [] = true := by decide

/-- 95_test_vectors.md V212, rule R318. -/
theorem test_V212 :
    stepsTo (vectorState Config.defaultCapacity [0x1234FFFF, 0, 0, 0, 0x8000, 0, 0, 0] 0 [(0x1000, [0x66, 0xC1, 0xE0, 0x11])])
      [0x12340000, 0, 0, 0, 0x8000, 0, 0, 0] 0x1004 0x7C5 0x44 0x1800 [] = true := by decide

/-- 95_test_vectors.md V202, rules R319, R313. -/
theorem test_V202 :
    stepsTo (vectorState Config.defaultCapacity [0x80000001, 0, 0, 0, 0x8000, 0, 0, 0] 0 [(0x1000, [0xD1, 0xE8])])
      [0x40000000, 0, 0, 0, 0x8000, 0, 0, 0] 0x1002 0xFC5 0x805 0x1800 [] = true := by decide

/-- 95_test_vectors.md V214, rule R319. -/
theorem test_V214 :
    stepsTo (vectorState Config.defaultCapacity [0x1234FFFF, 0, 0, 0, 0x8000, 0, 0, 0] 0 [(0x1000, [0x66, 0xC1, 0xE8, 0x11])])
      [0x12340000, 0, 0, 0, 0x8000, 0, 0, 0] 0x1004 0x7C5 0x44 0x1800 [] = true := by decide

/-- 95_test_vectors.md V205, rules R320, R313. -/
theorem test_V205 :
    stepsTo (vectorState Config.defaultCapacity [0x80000001, 0, 0, 0, 0x8000, 0, 0, 0] 0 [(0x1000, [0xD1, 0xF8])])
      [0xC0000000, 0, 0, 0, 0x8000, 0, 0, 0] 0x1002 0xFC5 0x85 0x1800 [] = true := by decide

/-- 95_test_vectors.md V209, rules R320, R322. -/
theorem test_V209 :
    stepsTo (vectorState Config.defaultCapacity [0x12348000, 0, 0, 0, 0x8000, 0, 0, 0] 0 [(0x1000, [0x66, 0xC1, 0xF8, 0x14])])
      [0x1234FFFF, 0, 0, 0, 0x8000, 0, 0, 0] 0x1004 0x7C5 0x85 0x1800 [] = true := by decide

/-- 95_test_vectors.md V220, rules R310, R318. -/
theorem test_V220 :
    stepsTo (vectorState Config.defaultCapacity [0, 4, 0, 0, 0x8000, 0, 0, 0] 0 [(0x1000, [0xD3, 0xE1])])
      [0, 0x40, 0, 0, 0x8000, 0, 0, 0] 0x1002 0x7C5 0 0x1800 [] = true := by decide

/-- 95_test_vectors.md V223, rules R320, R323. -/
theorem test_V223 :
    stepsTo (vectorState Config.defaultCapacity [0, 0, 0, 0x2000, 0x8000, 0, 0, 0] 0 [(0x1000, [0x66, 0xD1, 0x3B]), (0x2000, [0x02, 0x80, 0xFF, 0xFF])])
      [0, 0, 0, 0x2000, 0x8000, 0, 0, 0] 0x1003 0xFC5 0x80 0x1800 [(0x2000, [0x01, 0xC0, 0xFF, 0xFF])] = true := by decide

/-- 95_test_vectors.md V229, rules R351, R24. -/
theorem test_V229 :
    stepsTo (vectorState Config.defaultCapacity [0x1200, 0, 0, 0xAABBCCDD, 0x8000, 0, 0, 0] 0 [(0x1000, [0x88, 0xE3])])
      [0x1200, 0, 0, 0xAABBCC12, 0x8000, 0, 0, 0] 0x1002 0xFD5 0 0x1800 [] = true := by decide

/-- 95_test_vectors.md V233, rule R352. -/
theorem test_V233 :
    stepsTo (vectorState Config.defaultCapacity [0xCAFEBABE, 0, 0, 0x2000, 0x8000, 0, 0, 0] 0 [(0x1000, [0x66, 0x89, 0x03]), (0x2000, [0xFF, 0xFF, 0xFF, 0xFF])])
      [0xCAFEBABE, 0, 0, 0x2000, 0x8000, 0, 0, 0] 0x1003 0xFD5 0 0x1800 [(0x2000, [0xBE, 0xBA, 0xFF, 0xFF])] = true := by decide

/-- 95_test_vectors.md V234, rules R353, R24. -/
theorem test_V234 :
    stepsTo (vectorState Config.defaultCapacity [0x11111111, 0, 0, 0x2000, 0x8000, 0, 0, 0] 0 [(0x1000, [0x8A, 0x23]), (0x2000, [0x7E])])
      [0x11117E11, 0, 0, 0x2000, 0x8000, 0, 0, 0] 0x1002 0xFD5 0 0x1800 [] = true := by decide

/-- 95_test_vectors.md V236, rules R354, R23. -/
theorem test_V236 :
    stepsTo (vectorState Config.defaultCapacity [0xAAAAAAAA, 0, 0, 0x2000, 0x8000, 0, 0, 0] 0 [(0x1000, [0x66, 0x8B, 0x03]), (0x2000, [0x78, 0x56, 0x34, 0x12])])
      [0xAAAA5678, 0, 0, 0x2000, 0x8000, 0, 0, 0] 0x1003 0xFD5 0 0x1800 [] = true := by decide

/-- 95_test_vectors.md V238, rules R355, R24. -/
theorem test_V238 :
    stepsTo (vectorState Config.defaultCapacity [0x11111111, 0, 0, 0, 0x8000, 0, 0, 0] 0 [(0x1000, [0xB4, 0x7F])])
      [0x11117F11, 0, 0, 0, 0x8000, 0, 0, 0] 0x1002 0xFD5 0 0x1800 [] = true := by decide

/-- 95_test_vectors.md V242, rules R356, R108. -/
theorem test_V242 :
    stepsTo (vectorState Config.defaultCapacity [0xFFFFFFFF, 0, 0, 0, 0x8000, 0, 0, 0] 0 [(0x1000, [0x66, 0xB8, 0x34, 0x12])])
      [0xFFFF1234, 0, 0, 0, 0x8000, 0, 0, 0] 0x1004 0xFD5 0 0x1800 [] = true := by decide

/-- 95_test_vectors.md V244, rules R357, R136. -/
theorem test_V244 :
    stepsTo (vectorState Config.defaultCapacity [0, 0, 0, 0x2000, 0x8000, 0, 0, 0] 0 [(0x1000, [0xC6, 0x0B, 0x5A])])
      [0, 0, 0, 0x2000, 0x8000, 0, 0, 0] 0x1003 0xFD5 0 0x1800 [(0x2000, [0x5A, 0x00])] = true := by decide

/-- 95_test_vectors.md V247, rule R358. -/
theorem test_V247 :
    stepsTo (vectorState Config.defaultCapacity [0, 0, 0, 0x2000, 0x8000, 0, 0, 0] 0 [(0x1000, [0x66, 0xC7, 0x03, 0x34, 0x12]), (0x2000, [0xFF, 0xFF, 0xFF, 0xFF])])
      [0, 0, 0, 0x2000, 0x8000, 0, 0, 0] 0x1005 0xFD5 0 0x1800 [(0x2000, [0x34, 0x12, 0xFF, 0xFF])] = true := by decide

/-- 95_test_vectors.md V253, rules R359, R186. -/
theorem test_V253 :
    stepsTo (vectorState Config.defaultCapacity [0x80000001, 0, 0, 0, 0x8000, 0, 0, 0] 0 [(0x1000, [0x8D, 0x04, 0x00])])
      [2, 0, 0, 0, 0x8000, 0, 0, 0] 0x1003 0xFD5 0 0x1800 [] = true := by decide

/-- 95_test_vectors.md V254, rule R359. -/
theorem test_V254 :
    stepsTo (vectorState Config.defaultCapacity [0xAAAAAAAA, 0, 0, 0x12345678, 0x8000, 0, 0, 0] 0 [(0x1000, [0x66, 0x8D, 0x03])])
      [0xAAAA5678, 0, 0, 0x12345678, 0x8000, 0, 0, 0] 0x1003 0xFD5 0 0x1800 [] = true := by decide

/-- 95_test_vectors.md V259, rule R371. -/
theorem test_V259 :
    stepsTo (vectorState Config.defaultCapacity [0, 0, 0, 0, 0x8000, 0, 0, 0] 0 [(0x1000, [0x54])])
      [0, 0, 0, 0, 0x7FFC, 0, 0, 0] 0x1001 0xFD5 0 0x1800 [(0x7FFC, [0x00, 0x80, 0x00, 0x00])] = true := by decide

/-- 95_test_vectors.md V262, rule R372. -/
theorem test_V262 :
    stepsTo (vectorState Config.defaultCapacity [0, 0, 0, 0, 0x8000, 0, 0, 0] 0 [(0x1000, [0x66, 0x68, 0x34, 0x12])])
      [0, 0, 0, 0, 0x7FFE, 0, 0, 0] 0x1004 0xFD5 0 0x1800 [(0x7FFC, [0x00, 0x00, 0x34, 0x12])] = true := by decide

/-- 95_test_vectors.md V265, rule R373. -/
theorem test_V265 :
    stepsTo (vectorState Config.defaultCapacity [0, 0, 0, 0, 0x8000, 0, 0, 0] 0 [(0x1000, [0x66, 0x6A, 0xFF])])
      [0, 0, 0, 0, 0x7FFE, 0, 0, 0] 0x1003 0xFD5 0 0x1800 [(0x7FFC, [0x00, 0x00, 0xFF, 0xFF])] = true := by decide

/-- 95_test_vectors.md V267, rule R374. -/
theorem test_V267 :
    stepsTo (vectorState Config.defaultCapacity [0, 0, 0, 0, 0x8000, 0, 0, 0] 0 [(0x1000, [0xFF, 0x74, 0x24, 0x04]), (0x8004, [0x44, 0x33, 0x22, 0x11])])
      [0, 0, 0, 0, 0x7FFC, 0, 0, 0] 0x1004 0xFD5 0 0x1800 [(0x7FFC, [0x44, 0x33, 0x22, 0x11])] = true := by decide

/-- 95_test_vectors.md V270, rule R375. -/
theorem test_V270 :
    stepsTo (vectorState Config.defaultCapacity [0, 0, 0, 0, 0x8000, 0, 0, 0] 0 [(0x1000, [0x5C]), (0x8000, [0x00, 0x90, 0x00, 0x00])])
      [0, 0, 0, 0, 0x9000, 0, 0, 0] 0x1001 0xFD5 0 0x1800 [] = true := by decide

/-- 95_test_vectors.md V273, rule R376. -/
theorem test_V273 :
    stepsTo (vectorState Config.defaultCapacity [0, 0, 0, 0, 0x8000, 0, 0, 0] 0 [(0x1000, [0x8F, 0x04, 0x24]), (0x8000, [0x78, 0x56, 0x34, 0x12])])
      [0, 0, 0, 0, 0x8004, 0, 0, 0] 0x1003 0xFD5 0 0x1800 [(0x8000, [0x78, 0x56, 0x34, 0x12]), (0x8004, [0x78, 0x56, 0x34, 0x12])] = true := by decide

/-- 95_test_vectors.md V277, rule R382. -/
theorem test_V277 :
    stepsTo (vectorState Config.defaultCapacity [0, 0, 0, 0, 0x8000, 0x7000, 0, 0] 0 [(0x1000, [0xC9]), (0x7000, [0x00, 0x75, 0x00, 0x00])])
      [0, 0, 0, 0, 0x7004, 0x7500, 0, 0] 0x1001 0xFD5 0 0x1800 [] = true := by decide

/-- 95_test_vectors.md V292, rule R391. -/
theorem test_V292 :
    stepsTo (vectorState Config.defaultCapacity [0, 0, 0, 0, 0x8000, 0, 0, 0] 0 [(0x1000, [0xEB, 0x80])])
      [0, 0, 0, 0, 0x8000, 0, 0, 0] 0xF82 0xFD5 0 0x1800 [] = true := by decide

/-- 95_test_vectors.md V294, rule R392. -/
theorem test_V294 :
    stepsTo (vectorState Config.defaultCapacity [0, 0, 0, 0, 0x8000, 0, 0, 0] 0 [(0x1000, [0xE9, 0xFB, 0xEF, 0xFF, 0xFF])])
      [0, 0, 0, 0, 0x8000, 0, 0, 0] 0 0xFD5 0 0x1800 [] = true := by decide

/-- 95_test_vectors.md V298, rule R420. -/
theorem test_V298 :
    stepsTo (vectorState Config.defaultCapacity [0, 0, 0, 0, 0x8000, 0, 0, 0] 0 [(0x1000, [0xE8, 0xFB, 0xFF, 0xFF, 0xFF])])
      [0, 0, 0, 0, 0x7FFC, 0, 0, 0] 0x1000 0xFD5 0 0x1800 [(0x7FFC, [0x05, 0x10, 0x00, 0x00])] = true := by decide

/-- 95_test_vectors.md V301, rule R421. -/
theorem test_V301 :
    stepsTo (vectorState Config.defaultCapacity [0, 0, 0, 0, 0x8000, 0, 0, 0] 0 [(0x1000, [0xFF, 0x14, 0x24]), (0x8000, [0x00, 0x30, 0x00, 0x00])])
      [0, 0, 0, 0, 0x7FFC, 0, 0, 0] 0x3000 0xFD5 0 0x1800 [(0x7FFC, [0x03, 0x10, 0x00, 0x00])] = true := by decide

/-- 95_test_vectors.md V302, rule R421. -/
theorem test_V302 :
    stepsTo (vectorState Config.defaultCapacity [0, 0, 0, 0, 0x8000, 0, 0, 0] 0 [(0x1000, [0xFF, 0xD4])])
      [0, 0, 0, 0, 0x7FFC, 0, 0, 0] 0x8000 0xFD5 0 0x1800 [(0x7FFC, [0x02, 0x10, 0x00, 0x00])] = true := by decide

/-- 95_test_vectors.md V303, rule R422. -/
theorem test_V303 :
    stepsTo (vectorState Config.defaultCapacity [0, 0, 0, 0, 0x8000, 0, 0, 0] 0 [(0x1000, [0xC3]), (0x8000, [0x00, 0x30, 0x00, 0x00])])
      [0, 0, 0, 0, 0x8004, 0, 0, 0] 0x3000 0xFD5 0 0x1800 [] = true := by decide

/-- 95_test_vectors.md V340, rules R406, R393, R165. -/
theorem test_V340 :
    stepsTo (vectorState Config.defaultCapacity [0, 0, 0, 0, 0x8000, 0, 0, 0] 0x80 [(0x1000, [0x7C, 0x10])])
      [0, 0, 0, 0, 0x8000, 0, 0, 0] 0x1012 0xFD5 0x80 0x1800 [] = true := by decide

/-- 95_test_vectors.md V341, rules R406, R393. -/
theorem test_V341 :
    stepsTo (vectorState Config.defaultCapacity [0, 0, 0, 0, 0x8000, 0, 0, 0] 0x880 [(0x1000, [0x7C, 0x10])])
      [0, 0, 0, 0, 0x8000, 0, 0, 0] 0x1002 0xFD5 0x880 0x1800 [] = true := by decide

/-- 95_test_vectors.md V345, rules R408, R393. -/
theorem test_V345 :
    stepsTo (vectorState Config.defaultCapacity [0, 0, 0, 0, 0x8000, 0, 0, 0] 0x880 [(0x1000, [0x7E, 0x10])])
      [0, 0, 0, 0, 0x8000, 0, 0, 0] 0x1002 0xFD5 0x880 0x1800 [] = true := by decide

/-- 95_test_vectors.md V346, rules R409, R393, R165. -/
theorem test_V346 :
    stepsTo (vectorState Config.defaultCapacity [0, 0, 0, 0, 0x8000, 0, 0, 0] 0 [(0x1000, [0x7F, 0x10])])
      [0, 0, 0, 0, 0x8000, 0, 0, 0] 0x1012 0xFD5 0 0x1800 [] = true := by decide

/-- 95_test_vectors.md V330, rules R401, R393, R165. -/
theorem test_V330 :
    stepsTo (vectorState Config.defaultCapacity [0, 0, 0, 0, 0x8000, 0, 0, 0] 0 [(0x1000, [0x77, 0x10])])
      [0, 0, 0, 0, 0x8000, 0, 0, 0] 0x1012 0xFD5 0 0x1800 [] = true := by decide

/-- 95_test_vectors.md V350, rules R406, R390. -/
theorem test_V350 :
    stepsTo (vectorState Config.defaultCapacity [0, 0, 0, 0, 0x8000, 0, 0, 0] 0x80 [(0x1000, [0x0F, 0x8C, 0xF0, 0xFF, 0xFF, 0xFF])])
      [0, 0, 0, 0, 0x8000, 0, 0, 0] 0xFF6 0xFD5 0x80 0x1800 [] = true := by decide

/-- 95_test_vectors.md V349, rules R398, R393. -/
theorem test_V349 :
    stepsTo (vectorState Config.defaultCapacity [0, 0, 0, 0, 0x8000, 0, 0, 0] 0 [(0x1000, [0x0F, 0x84, 0x00, 0x01, 0x00, 0x00])])
      [0, 0, 0, 0, 0x8000, 0, 0, 0] 0x1006 0xFD5 0 0x1800 [] = true := by decide

/-- 95_test_vectors.md V363, rule R450. -/
theorem test_V363 :
    stepsTo (vectorState Config.defaultCapacity [0xDDCCBBAA, 9, 0, 0, 0x8000, 0, 0, 0x3000] 0 [(0x1000, [0xAB])])
      [0xDDCCBBAA, 9, 0, 0, 0x8000, 0, 0, 0x3004] 0x1001 0xFD5 0 0x1800 [(0x3000, [0xAA, 0xBB, 0xCC, 0xDD])] = true := by decide

/-- 95_test_vectors.md V366, rules R450, R451. -/
theorem test_V366 :
    stepsTo (vectorState Config.defaultCapacity [0x1020304, 3, 0, 0, 0x8000, 0, 0, 0x3000] 0 [(0x1000, [0xF3, 0xAB])])
      [0x1020304, 0, 0, 0, 0x8000, 0, 0, 0x300C] 0x1002 0xFD5 0 0x1800 [(0x3000, [0x04, 0x03, 0x02, 0x01, 0x04, 0x03, 0x02, 0x01, 0x04, 0x03, 0x02, 0x01, 0x00, 0x00, 0x00, 0x00])] = true := by decide

/-- 95_test_vectors.md V369, rule R451. -/
theorem test_V369 :
    stepsTo (vectorState Config.defaultCapacity [0xEE, 2, 0, 0, 0x8000, 0, 0, 0x3008] 0x400 [(0x1000, [0xF3, 0xAB])])
      [0xEE, 0, 0, 0, 0x8000, 0, 0, 0x3000] 0x1002 0xFD5 0x400 0x1800 [(0x3000, [0x00, 0x00, 0x00, 0x00, 0xEE, 0x00, 0x00, 0x00, 0xEE, 0x00, 0x00, 0x00])] = true := by decide

/-- 95_test_vectors.md V370, rule R451. -/
theorem test_V370 :
    stepsTo (vectorState Config.defaultCapacity [0xBEEF, 3, 0, 0, 0x8000, 0, 0, 0x3000] 0 [(0x1000, [0xF3, 0x66, 0xAB])])
      [0xBEEF, 0, 0, 0, 0x8000, 0, 0, 0x3006] 0x1003 0xFD5 0 0x1800 [(0x3000, [0xEF, 0xBE, 0xEF, 0xBE, 0xEF, 0xBE, 0x00, 0x00])] = true := by decide

/-- 95_test_vectors.md V381, rule R458. -/
theorem test_V381 :
    stepsTo (vectorState Config.defaultCapacity [0x12345678, 0, 0, 0, 0x8000, 0, 0, 0] 0 [(0x1000, [0xE6, 0x42])])
      [0x12345678, 0, 0, 0, 0x8000, 0, 0, 0] 0x1002 0xFD5 0 0x1800 [] = true := by decide

/-- 95_test_vectors.md V382, rule R459. -/
theorem test_V382 :
    stepsTo (vectorState Config.defaultCapacity [0x41, 0, 0xFFFF03F8, 0, 0x8000, 0, 0, 0] 0 [(0x1000, [0xEE])])
      [0x41, 0, 0xFFFF03F8, 0, 0x8000, 0, 0, 0] 0x1001 0xFD5 0 0x1800 [] = true := by decide

/-- 95_test_vectors.md V393, rules R134, R39. -/
theorem test_V393 :
    stepsTo (vectorState Config.defaultCapacity [0xFFFF, 0, 0, 0, 0x8000, 0, 0, 0] 0 [(0x1000, [0x26, 0x3E, 0x66, 0xF3, 0x40])])
      [0, 0, 0, 0, 0x8000, 0, 0, 0] 0x1005 0xFD5 0x54 0x1C00 [] = true := by decide

/-- 95_test_vectors.md V390, rules R134, R42. -/
theorem test_V390 :
    stepsTo (vectorState Config.defaultCapacity [1, 0, 0, 0x2000, 0x8000, 0, 0, 0] 0 [(0x1000, [0xF0, 0x01, 0x03])])
      [1, 0, 0, 0x2000, 0x8000, 0, 0, 0] 0x1003 0xFD5 0 0x1800 [(0x2000, [0x01, 0x00, 0x00, 0x00])] = true := by decide

/-- 95_test_vectors.md V405, rules R212, R552. -/
theorem test_V405 :
    stepsTo (vectorState Config.defaultCapacity [0x2000, 0, 0, 0, 0x8000, 0, 0, 0] 0 [(0x1000, [0x00, 0x00])])
      [0x2000, 0, 0, 0, 0x8000, 0, 0, 0] 0x1002 0xFD5 0x44 0x1800 [(0x2000, [0x00])] = true := by decide

/-- 95_test_vectors.md V32, rules R353, R61, R501, R505. -/
theorem test_V32 :
    faultsWith (step (vectorState 0x2000 [0x11, 0, 0, 0, 0x8000, 0, 0, 0] 0 [(0x1000, [0x8A, 0x05, 0x00, 0x20, 0x00, 0x00])]))
      (.outOfBoundsMemoryAccess 0x1000 0x2000 1 .read) = true := by decide

/-- 95_test_vectors.md V35, rules R354, R61. -/
theorem test_V35 :
    faultsWith (step (vectorState 0x2000 [0, 0, 0, 0, 0x8000, 0, 0, 0] 0 [(0x1000, [0x8B, 0x05, 0xFD, 0x1F, 0x00, 0x00])]))
      (.outOfBoundsMemoryAccess 0x1000 0x1FFD 4 .read) = true := by decide

/-- 95_test_vectors.md V36, rules R352, R61, R63. -/
theorem test_V36 :
    faultsWith (step (vectorState 0x2000 [0, 0, 0, 0xFFFFFFFF, 0x8000, 0, 0, 0] 0 [(0x1000, [0x89, 0x1D, 0xFE, 0x1F, 0x00, 0x00])]))
      (.outOfBoundsMemoryAccess 0x1000 0x1FFE 4 .write) = true := by decide

/-- 95_test_vectors.md V76, rules R184, R139. -/
theorem test_V76 :
    refusedWith (step (vectorState Config.defaultCapacity [0, 0, 0, 0x2000, 0x8000, 0, 0, 0] 0 [(0x1000, [0x67, 0x8B, 0x03])])) .addr16 = true := by decide

/-- 95_test_vectors.md V152, rules R472, R473. -/
theorem test_V152 :
    faultsWith (step (vectorState Config.defaultCapacity [1, 0, 0, 0, 0x8000, 0, 0, 0] 1 [(0x1000, [0x83, 0xD0, 0x05])]))
      (.unimplementedOpcode 0x1000 [0x83, 0xD0]) = true := by decide

/-- 95_test_vectors.md V153, rules R136, R473. -/
theorem test_V153 :
    faultsWith (step (vectorState Config.defaultCapacity [0, 0, 0, 0, 0x8000, 0, 0, 0] 0 [(0x1000, [0x80, 0xC0, 0x01])]))
      (.unimplementedOpcode 0x1000 [0x80]) = true := by decide

/-- 95_test_vectors.md V169, rules R294, R504. -/
theorem test_V169 :
    faultsWith (step (vectorState Config.defaultCapacity [0, 0, 2, 2, 0x8000, 0, 0, 0] 0x40 [(0x1000, [0xF7, 0xF3])]))
      (.divisionOverflow 0x1000) = true := by decide

/-- 95_test_vectors.md V170, rules R294, R503. -/
theorem test_V170 :
    faultsWith (step (vectorState Config.defaultCapacity [5, 0, 0, 0, 0x8000, 0, 0, 0] 0 [(0x1000, [0xF7, 0xF3])]))
      (.divideByZero 0x1000) = true := by decide

/-- 95_test_vectors.md V179, rules R295, R504. -/
theorem test_V179 :
    faultsWith (step (vectorState Config.defaultCapacity [0x80000000, 0, 0xFFFFFFFF, 0xFFFFFFFF, 0x8000, 0, 0, 0] 0 [(0x1000, [0xF7, 0xFB])]))
      (.divisionOverflow 0x1000) = true := by decide

/-- 95_test_vectors.md V183, rules R297, R61. -/
theorem test_V183 :
    faultsWith (step (vectorState Config.defaultCapacity [1, 0, 0, 0xA00000, 0x8000, 0, 0, 0] 0 [(0x1000, [0xF7, 0x33])]))
      (.outOfBoundsMemoryAccess 0x1000 0xA00000 4 .read) = true := by decide

/-- 95_test_vectors.md V184, rules R472, R473. -/
theorem test_V184 :
    faultsWith (step (vectorState Config.defaultCapacity [0, 0, 0, 0, 0x8000, 0, 0, 0] 0 [(0x1000, [0xF7, 0xC8])]))
      (.unimplementedOpcode 0x1000 [0xF7, 0xC8]) = true := by decide

/-- 95_test_vectors.md V255, rules R359, R139. -/
theorem test_V255 :
    refusedWith (step (vectorState Config.defaultCapacity [0, 0, 0, 0, 0x8000, 0, 0, 0] 0 [(0x1000, [0x8D, 0xC0])])) .leaReg = true := by decide

/-- 95_test_vectors.md V276, rules R376, R505. -/
theorem test_V276 :
    faultsWith (step (vectorState Config.defaultCapacity [0, 0, 0, 0, 0x8000, 0, 0, 0] 0 [(0x1000, [0x8F, 0x05, 0x00, 0x00, 0x00, 0xF0]), (0x8000, [0x78, 0x56, 0x34, 0x12])]))
      (.outOfBoundsMemoryAccess 0x1000 0xF0000000 4 .write) = true := by decide

/-- 95_test_vectors.md V279, rules R382, R139. -/
theorem test_V279 :
    refusedWith (step (vectorState Config.defaultCapacity [0, 0, 0, 0, 0x8000, 0x7000, 0, 0] 0 [(0x1000, [0x66, 0xC9])])) .opsize16Leave = true := by decide

/-- 95_test_vectors.md V281, rules R383, R61. -/
theorem test_V281 :
    faultsWith (step (vectorState Config.defaultCapacity [0, 0, 0, 0, 0, 0, 0, 0] 0 [(0x1000, [0x50])]))
      (.outOfBoundsMemoryAccess 0x1000 0xFFFFFFFC 4 .write) = true := by decide

/-- 95_test_vectors.md V304, rules R422, R61. -/
theorem test_V304 :
    faultsWith (step (vectorState Config.defaultCapacity [0, 0, 0, 0, 0xA00000, 0, 0, 0] 0 [(0x1000, [0xC3])]))
      (.outOfBoundsMemoryAccess 0x1000 0xA00000 4 .read) = true := by decide

/-- 95_test_vectors.md V309, rules R441, R139. -/
theorem test_V309 :
    refusedWith (step (vectorState Config.defaultCapacity [0, 0, 0, 0, 0x8000, 0, 0, 0] 0 [(0x1000, [0x66, 0xC3]), (0x8000, [0x00, 0x30, 0x00, 0x00])])) .opsize16Transfer = true := by decide

/-- 95_test_vectors.md V314, rules R441, R139. -/
theorem test_V314 :
    refusedWith (step (vectorState Config.defaultCapacity [0, 0, 0, 0, 0x8000, 0, 0, 0] 0 [(0x1000, [0x66, 0x74, 0x05])])) .opsize16Transfer = true := by decide

/-- 95_test_vectors.md V355, rules R393, R61. -/
theorem test_V355 :
    faultsWith (step (vectorState 0x1001 [0, 0, 0, 0, 0x8000, 0, 0, 0] 0 [(0x1000, [0x74])]))
      (.outOfBoundsMemoryAccess 0x1000 0x1001 1 .read) = true := by decide

/-- 95_test_vectors.md V373, rules R451, R505. -/
theorem test_V373 :
    faultsWith (step (vectorState Config.defaultCapacity [0x1020304, 3, 0, 0, 0x8000, 0, 0, 0x9FFFF8] 0 [(0x1000, [0xF3, 0xAB])]))
      (.outOfBoundsMemoryAccess 0x1000 0xA00000 4 .write) = true := by decide

/-- 95_test_vectors.md V375, rules R451, R139. -/
theorem test_V375 :
    refusedWith (step (vectorState Config.defaultCapacity [0, 0, 0, 0, 0x8000, 0, 0, 0x3000] 0 [(0x1000, [0x67, 0xAB])])) .addr16Stos = true := by decide

/-- 95_test_vectors.md V394, rules R102, R61, R505. -/
theorem test_V394 :
    faultsWith (step (vectorState 0x1001 [0, 0, 0, 0, 0x8000, 0, 0, 0] 0 [(0x1000, [0x66])]))
      (.outOfBoundsMemoryAccess 0x1000 0x1001 1 .read) = true := by decide

/-- 95_test_vectors.md V397, rules R133, R473. -/
theorem test_V397 :
    faultsWith (step (vectorState Config.defaultCapacity [0, 0, 0, 0, 0x8000, 0, 0, 0] 0 [(0x1000, [0x0F, 0xA2])]))
      (.unimplementedOpcode 0x1000 [0x0F, 0xA2]) = true := by decide

/-- 95_test_vectors.md V399, rules R133, R61. -/
theorem test_V399 :
    faultsWith (step (vectorState 0x1001 [0, 0, 0, 0, 0x8000, 0, 0, 0] 0 [(0x1000, [0x0F])]))
      (.outOfBoundsMemoryAccess 0x1000 0x1001 1 .read) = true := by decide

/-- 95_test_vectors.md V406, rules R472, R507. -/
theorem test_V406 :
    faultsWith (step (vectorState 0x1002 [0, 0, 0, 0, 0x8000, 0, 0, 0] 0 [(0x1000, [0x81, 0xD0])]))
      (.unimplementedOpcode 0x1000 [0x81, 0xD0]) = true := by decide

/-- 95_test_vectors.md V407, rules R218, R61. -/
theorem test_V407 :
    faultsWith (step (vectorState 0x1002 [0, 0, 0, 0, 0x8000, 0, 0, 0] 0 [(0x1000, [0x81, 0xC0])]))
      (.outOfBoundsMemoryAccess 0x1000 0x1002 4 .read) = true := by decide

/-- 95_test_vectors.md V408, rules R507, R61. -/
theorem test_V408 :
    faultsWith (step (vectorState 0x1002 [0, 0, 0, 0, 0x8000, 0, 0, 0] 0 [(0x1000, [0x83, 0x90])]))
      (.outOfBoundsMemoryAccess 0x1000 0x1002 4 .read) = true := by decide

/-- 95_test_vectors.md V411, rules R297, R503. -/
theorem test_V411 :
    faultsWith (step (vectorState Config.defaultCapacity [0, 0, 5, 0, 0x8000, 0, 0, 0] 0 [(0x1000, [0xF7, 0xF3])]))
      (.divideByZero 0x1000) = true := by decide
/-! ## The fetch word and the decoder of the table -/

/-- V26's first word: MOV EAX, 1 (30_encoding.md R122). -/
theorem test_decodeTableWord : decodeTableWord 40 0x00000001B8 = some (.movRvImmv 0 1) := by decide

/-- V26's first word, placed where the step after reset fetches it, runs. -/
theorem test_withFetchWord : stepsTo (State.reset.withFetchWord 40 0x00000001B8) [1, 0, 0, 0, 0x8000, 0, 0, 0] 0x1005
    0xFD5 0 0x1800 [] = true := by decide

/-! ## Witnesses: states and operands that meet the hypotheses of the obligations -/

/-- A memory of 64 bytes, ESP and EBP and EDI at its end less 4, EAX 7, ECX 2, EDX 0, EBX 3. -/
def small : State := vectorState 64 [7, 2, 0, 3, 60, 60, 0, 60] 0 []

/-- The same under prefix 0x66, with 62 in ESP and EDI. -/
def small16 : State :=
  { vectorState 64 [7, 2, 0, 3, 62, 62, 0, 62] 0 [] with pfx := { PrefixState.initial with opovr := true, os32 := false } }

/-- The same under prefix 0x67. -/
def small67 : State := small.setPfx { PrefixState.initial with adovr := true, as32 := false }

/-- A memory of 64 bytes that holds a code at 16, where IP is. -/
def coded (bs : List Byte) : State := (small.setIp 16).placeBytes 16 bs

/-- The state of `coded` after one prefix byte 0x66. -/
def coded66 (bs : List Byte) : State := ((coded bs).begin.advance 1).setPfx { PrefixState.initial with opovr := true, os32 := false }

theorem witness_EncodingsDecodeBack :
    (Instr.addRmvImmv (.mem (.sibDisp32 2 4 5 1)) 0xFFFF).wf .opsize16 = true ∧ Instr.opSize.wf .default = true := by decide

theorem witness_DecodedBytesAreTheEncoding :
    decodeBytes .default [0x81, 0x84, 0xA5, 1, 0, 0, 0, 2, 0, 0, 0, 0x90] =
      .ok (.addRmvImmv (.mem (.sibDisp32 2 4 5 1)) 2) 11 := by decide

theorem witness_PrefixRun (bs : List Byte) (h : decodeAt (coded (0x66 :: bs)).begin = .pfxByte .opSize) :
    PrefixRun 1 (coded (0x66 :: bs)).begin (coded66 (0x66 :: bs)) := .cons h rfl (.nil _)

theorem witness_UnmappedFirstByteFaults :
    PrefixRun 1 (coded [0x66, 0x90]).begin (coded66 [0x66, 0x90]) ∧ 1 ≤ (coded [0x66, 0x90]).mem.capacity ∧
      (coded66 [0x66, 0x90]).ip.toNat < (coded66 [0x66, 0x90]).mem.capacity ∧
      (coded66 [0x66, 0x90]).mem.byte (coded66 [0x66, 0x90]).ip.toNat ∈ unmappedFirstBytes :=
  ⟨witness_PrefixRun _ (by decide), by decide, by decide, by decide⟩

theorem witness_UnmappedSecondByteFaults :
    PrefixRun 0 (coded [0x0F, 0x7F]).begin (coded [0x0F, 0x7F]).begin ∧
      ((coded [0x0F, 0x7F]).mem.byte 16 = 0x0F ∧ ((coded [0x0F, 0x7F]).mem.byte 17).toNat < 0x80) ∧
      ((coded [0x0F, 0x90]).mem.byte 16 = 0x0F ∧ 0x8F < ((coded [0x0F, 0x90]).mem.byte 17).toNat) :=
  ⟨.nil _, by decide, by decide⟩

theorem witness_UnmappedGroupRegFaults :
    PrefixRun 1 (coded [0x66, 0x83, 0x53, 0x10]).begin (coded66 [0x66, 0x83, 0x53, 0x10]) ∧
      (0x83#8, 2#3) ∈ unmappedGroupRegs ∧
      (Rm.mem (.baseDisp8 3 0x10)).wf (coded66 [0x66, 0x83, 0x53, 0x10]).decodeMode = true ∧
      HoldsBytes (coded66 [0x66, 0x83, 0x53, 0x10]).mem (coded66 [0x66, 0x83, 0x53, 0x10]).ip
        (0x83#8 :: encodeRm 2 (.mem (.baseDisp8 3 0x10))) :=
  ⟨witness_PrefixRun _ (by decide), by decide, by decide, by decide, by decide, by decide⟩

theorem witness_StepRunsTheDecodedInstruction : decodeAt (coded [0x6A, 0x05]) = .ok (.pushImm8s 5) 2 := by decide

theorem witness_EncodedInstructionInMemoryRuns :
    (Instr.pushImm8s 5).wf (coded [0x6A, 0x05]).decodeMode = true ∧ (Instr.pushImm8s 5).isPfxByte = false ∧
      HoldsBytes (coded [0x6A, 0x05]).mem (coded [0x6A, 0x05]).ip (encode (coded [0x6A, 0x05]).decodeMode (.pushImm8s 5)) :=
  ⟨by decide, by decide, by decide, by decide, by decide⟩

theorem witness_PrefixRunAndInstructionAreOneStep :
    PrefixRun 1 (coded [0x66, 0x40]).begin (coded66 [0x66, 0x40]) ∧ 1 ≤ (coded [0x66, 0x40]).mem.capacity ∧
      decodeAt (coded66 [0x66, 0x40]) = .ok (.incRv 0) 1 := ⟨witness_PrefixRun _ (by decide), by decide, by decide⟩

theorem witness_coded_inv : (coded [0x6A, 0x05]).Inv :=
  ⟨⟨rfl, rfl, rfl, rfl, rfl, rfl, rfl, rfl, rfl, rfl, rfl⟩, by decide, by decide, by decide⟩

/-- The next state of an outcome that has one. -/
def nextOf (o : Out State) : State :=
  match o with
  | .next t => t
  | .fault _ => small
  | .refused _ => small

theorem next_of_completes {o : Out State} (h : completes o = true) : o = .next (nextOf o) := by
  cases o <;> first | rfl | exact nomatch h

theorem fault_of_faultsWith {o : Out State} {r : Fault} (h : faultsWith o r = true) : o = .fault r := by
  cases o <;> first | exact congrArg _ (of_decide_eq_true h) | exact nomatch h

theorem refused_of_refusedWith {o : Out State} {r : Refusal} (h : refusedWith o r = true) : o = .refused r := by
  cases o <;> first | exact congrArg _ (of_decide_eq_true h) | exact nomatch h

theorem witness_StepKeepsTheInvariant :
    (coded [0x6A, 0x05]).Inv ∧ ∃ t, step (coded [0x6A, 0x05]) = .next t ∧ t.reg esp = 56 :=
  ⟨witness_coded_inv, nextOf (step (coded [0x6A, 0x05])), next_of_completes (by decide), by decide⟩

theorem witness_ResetHasTheInvariant :
    (1 ≤ 1 ∧ 1 ≤ 2 ^ 32) ∧ (1 ≤ Config.defaultCapacity ∧ Config.defaultCapacity ≤ 2 ^ 32) ∧ (1 ≤ 2 ^ 32) := by decide

theorem witness_HostWritesKeepTheInvariant : (coded [0x6A, 0x05]).Inv := witness_coded_inv

theorem witness_OnlyIntWritesStoredFlags :
    ∃ t, exec (.addEaxImmv 1) small = .next t ∧ (∀ v, Instr.addEaxImmv 1 ≠ .intImm8 v) :=
  ⟨nextOf (exec (.addEaxImmv 1) small), next_of_completes (by decide), fun v h => by cases h⟩

theorem witness_OnlyPrefixesAndStosWritePfx :
    (∃ t, exec .stos small = .next t ∧ Instr.stos.isPfxByte = false) ∧
      ∃ t, exec (.notRmv (.reg 0)) small16 = .next t ∧ (Instr.notRmv (.reg 0)).isPfxByte = false :=
  ⟨⟨nextOf (exec .stos small), next_of_completes (by decide), rfl⟩, nextOf (exec (.notRmv (.reg 0)) small16), next_of_completes (by decide), rfl⟩

theorem witness_OnlyInOutIntCallTheHost :
    (∃ t, exec .outDxAl small = .next t ∧ callsHost .outDxAl = true) ∧
      ∃ t, exec .stos small = .next t ∧ callsHost .stos = false :=
  ⟨⟨nextOf (exec .outDxAl small), next_of_completes (by decide), rfl⟩, nextOf (exec .stos small), next_of_completes (by decide), rfl⟩

theorem witness_NonTransfersKeepIp : ∃ t, exec (.popRv 0) small = .next t ∧ isTransfer (.popRv 0) = false :=
  ⟨nextOf (exec (.popRv 0) small), next_of_completes (by decide), rfl⟩

/-- A memory of 64 bytes with a code at its end, where IP is. -/
def ended (bs : List Byte) : State :=
  (small.setIp (BitVec.ofNat 32 (64 - bs.length))).placeBytes (64 - bs.length) bs

/-- The state of `ended` after one prefix byte 0x66. -/
def ended66 (bs : List Byte) : State :=
  ((ended bs).begin.advance 1).setPfx { PrefixState.initial with opovr := true, os32 := false }

theorem witness_FaultRecordsAreTrue :
    step (coded [0x8B, 0x05, 61, 0, 0, 0]) = .fault (.outOfBoundsMemoryAccess 16 61 4 .read) :=
  fault_of_faultsWith (by decide)

theorem witness_FetchFaults_truncated :
    PrefixRun 1 (ended [0x66, 0xB8, 1]).begin (ended66 [0x66, 0xB8, 1]) ∧ 1 ≤ (ended [0x66, 0xB8, 1]).mem.capacity ∧
      decodeAt (ended66 [0x66, 0xB8, 1]) = .truncated 1 2 := ⟨.cons (i := .opSize) (by decide) rfl (.nil _), by decide, by decide⟩

theorem witness_FetchFaults_ends :
    (ended []).mem.capacity ≤ (ended []).ip.toNat ∧
      ((ended [0x0F]).ip.toNat < (ended [0x0F]).mem.capacity ∧
        (ended [0x0F]).mem.capacity ≤ ((ended [0x0F]).ip + 1).toNat ∧
        (ended [0x0F]).mem.byte (ended [0x0F]).ip.toNat ∈ 0x0F#8 :: modrmOpcodes) ∧
      (ended [0x8D]).mem.byte (ended [0x8D]).ip.toNat ∈ 0x0F#8 :: modrmOpcodes := by decide

theorem witness_FetchFaults_cut :
    (Instr.addRmvImm8s (.mem (.sibDisp8 2 1 5 8)) 3).wf (ended [0x83, 0x44]).decodeMode = true ∧
      (Instr.addRmvImm8s (.mem (.sibDisp8 2 1 5 8)) 3).fieldWidths (ended [0x83, 0x44]).decodeMode =
        [1, 1] ++ 1 :: [1, 1] ∧
      CutOff (ended [0x83, 0x44])
        (encode (ended [0x83, 0x44]).decodeMode (.addRmvImm8s (.mem (.sibDisp8 2 1 5 8)) 3)) [1, 1] 1 :=
  ⟨by decide, by decide, ⟨by decide, by decide, by decide⟩, by decide, by decide⟩

theorem witness_FetchFaults_group :
    (0x83#8, 2#3) ∈ unmappedGroupRegs ∧ (Rm.mem (.baseDisp32 0 1)).wf (ended [0x83, 0x90, 1]).decodeMode = true ∧
      1 :: (Rm.mem (.baseDisp32 0 1)).fieldWidths = [1, 1] ++ 4 :: [] ∧
      CutOff (ended [0x83, 0x90, 1]) (0x83#8 :: encodeRm 2 (.mem (.baseDisp32 0 1))) [1, 1] 4 :=
  ⟨by decide, by decide, by decide, ⟨by decide, by decide, by decide⟩, by decide, by decide⟩

/-- A cut immediate faults at its first byte with its whole width (60_exceptions.md R512). -/
theorem test_fetch_cut_immediate :
    faultsWith (step (ended [0xB8, 1])) (.outOfBoundsMemoryAccess 62 63 4 .read) = true := by decide

theorem witness_DivideFaultsComeFromDivision :
    exec (.divRmv (.reg 2)) small = .fault (.divideByZero 0x1000) ∧
      exec (.popRv 0) (small.setReg esp 61) = .fault (.outOfBoundsMemoryAccess 0x1000 61 4 .read) :=
  ⟨fault_of_faultsWith (by decide), fault_of_faultsWith (by decide)⟩

theorem witness_RefusalsNeedASizePrefix :
    exec .ret small16 = .refused .opsize16Transfer ∧ exec .leave small16 = .refused .opsize16Leave ∧
      exec .stos small67 = .refused .addr16Stos ∧ exec (.notRmv (.mem (.base 0))) small67 = .refused .addr16 ∧
      .notRmv (.mem (.base 0)) ∈ allAddressed (.base 0) 0 0 0 :=
  ⟨refused_of_refusedWith (by decide), refused_of_refusedWith (by decide), refused_of_refusedWith (by decide),
    refused_of_refusedWith (by decide), by decide⟩

theorem witness_NoticesComeFromUnhandledInt :
    ∃ t, step (coded [0xEE]) = .next t ∧ t.notice = none := ⟨nextOf (step (coded [0xEE])), next_of_completes (by decide), by decide⟩

theorem witness_RunUntilStopsWhereItSays :
    runUntil (fun _ => false) 1 (coded [0x90]) [] = .halted (coded [0x90]) (.unimplementedOpcode 16 [0x90]) [] ∧
      runUntil (fun t => t.ip == 18) 2 (coded [0x6A, 0x05]) [] =
        .stoppedByPredicate (nextOf (step (coded [0x6A, 0x05]))) [] ∧
      runUntil (fun _ => false) 1 (coded [0x66, 0xC3]) [] = .stoppedByRefusal (coded [0x66, 0xC3]) .opsize16Transfer [] ∧
      runUntil (fun _ => false) 0 (coded []) [] = .budgetSpent (coded []) [] ∧
      (fun t : State => t.ip == 16) (coded []) = true := by decide

theorem witness_RunUntil_goes_on :
    (fun t : State => t.ip == 18) (coded [0x6A, 0x05]) = false ∧ (∃ t, step (coded [0x6A, 0x05]) = .next t) ∧
      step (coded [0x90]) = .fault (.unimplementedOpcode 16 [0x90]) ∧
      step (coded [0x66, 0xC3]) = .refused .opsize16Transfer :=
  ⟨by decide, ⟨nextOf (step (coded [0x6A, 0x05])), next_of_completes (by decide)⟩, fault_of_faultsWith (by decide),
    refused_of_refusedWith (by decide)⟩

theorem witness_RegisterViewsAreFields : 7 < Width.w8.bits ∧ 31 < Width.w32.bits ∧ (3#3).toNat < 4 := by decide

theorem witness_MemoryReadsLittleEndian :
    (60#32).toNat + Width.w32.bytes ≤ small.mem.capacity ∧ small.mem.capacity < (61#32).toNat + Width.w32.bytes ∧
      small.mem.capacity < (0xFFFFFFFF#32).toNat + Width.w8.bytes := by decide

theorem witness_MemoryWritesEachByte :
    ((60#32).toNat + Width.w32.bytes ≤ small.mem.capacity ∧ 3 < Width.w32.bytes ∧ ¬ inField 60 Width.w32.bytes 59) ∧
      small.mem.capacity < (63#32).toNat + Width.w16.bytes :=
  ⟨⟨by decide, by decide, fun h => absurd h.1 (by decide)⟩, by decide⟩

theorem witness_MemoryOperandsOutsideMemory :
    (small.pfx.as32 = true ∧ small.mem.capacity < (ea (.disp32 64) small).toNat + 1) ∧
      small.mem.capacity < (ea (.disp32 61) small).toNat + small.osz.bytes ∧ small67.pfx.as32 = false := by decide

theorem witness_AluRmRegForms :
    Accessible .w8 (.mem (.disp32 63)) small ∧ Accessible small.osz (.mem (.disp32 60)) small ∧
      Accessible small16.osz (.mem (.disp32 62)) small16 := ⟨⟨by decide, by decide⟩, ⟨by decide, by decide⟩, ⟨by decide, by decide⟩⟩

theorem witness_AluRegRmForms :
    Accessible .w8 (.reg 7) small ∧ Accessible small.osz (.mem (.baseDisp8 0 53)) small := ⟨trivial, ⟨by decide, by decide⟩⟩

theorem witness_AluRmImmForms : Accessible small.osz (.mem (.base 4)) small := ⟨by decide, by decide⟩

theorem witness_NotNegIncDecForms : Accessible small16.osz (.mem (.disp32 0)) small16 := ⟨by decide, by decide⟩

theorem witness_AddSubAndIncDecRestore : (0#3) ≠ 7#3 := by decide

theorem witness_MultiplyIsExact : Accessible small.osz (.reg 0) small ∧ Accessible small.osz (.mem (.disp32 60)) small :=
  ⟨trivial, ⟨by decide, by decide⟩⟩

theorem witness_UnsignedDivisionIsExact :
    Accessible small.osz (.reg 3) small ∧ (readReg small.osz 2 small).toNat < (operand small.osz (.reg 3) small).toNat :=
  ⟨trivial, by decide⟩

theorem witness_SignedDivisionIsExact :
    Accessible small.osz (.reg 3) small ∧ (operand small.osz (.reg 3) small).toInt ≠ 0 ∧
      FitsSigned small.osz.bits
        (((readReg small.osz 2 small).toInt * 2 ^ small.osz.bits + (readReg small.osz 0 small).toNat).tdiv
          (operand small.osz (.reg 3) small).toInt) := ⟨trivial, by decide, by decide, by decide⟩

theorem witness_DivisionFaults :
    (small.pfx.as32 = true ∧ small.mem.capacity < (ea (.disp32 61) small).toNat + small.osz.bytes) ∧
      (Accessible small.osz (.reg 2) small ∧ operand small.osz (.reg 2) small = 0) ∧
      (Accessible small.osz (.reg 3) (small.setReg 2 3) ∧ operand small.osz (.reg 3) (small.setReg 2 3) ≠ 0 ∧
        (operand small.osz (.reg 3) (small.setReg 2 3)).toNat ≤ (readReg small.osz 2 (small.setReg 2 3)).toNat) ∧
      ¬ FitsSigned 32 (((1#32 : BitVec 32).toInt * 2 ^ 32 + (0#32 : BitVec 32).toNat).tdiv (1#32 : BitVec 32).toInt) :=
  ⟨by decide, ⟨trivial, by decide⟩, ⟨trivial, by decide, by decide⟩, fun h => absurd h.2 (by decide)⟩

theorem witness_MaskedCountZeroChangesNothing :
    Accessible small.osz (.mem (.disp32 60)) small ∧ countOf 0x20 = 0 ∧ countOf 0xE0 = 0 ∧
      countOf (readReg .w8 1 (small.setReg 1 0x120)) = 0 := ⟨⟨by decide, by decide⟩, by decide, by decide, by decide⟩

theorem witness_ShiftsInClosedForm :
    Accessible small.osz (.mem (.disp32 60)) small ∧ countOf 31 ≠ 0 ∧ countOf 0x21 ≠ 0 ∧
      countOf (readReg .w8 1 small) ≠ 0 := ⟨⟨by decide, by decide⟩, by decide, by decide, by decide⟩

theorem witness_RotatesMoveEachBit :
    Accessible small16.osz (.reg 1) small16 ∧ countOf 16 ≠ 0 ∧ countOf (readReg .w8 1 small16) ≠ 0 :=
  ⟨trivial, by decide, by decide⟩

theorem witness_CarryRotatesTurnTheRing :
    Accessible small16.osz (.mem (.disp32 62)) small16 ∧ countOf 17 ≠ 0 ∧ countOf (readReg .w8 1 small16) ≠ 0 :=
  ⟨⟨by decide, by decide⟩, by decide, by decide⟩

theorem witness_MovForms :
    Accessible .w8 (.mem (.disp32 63)) small ∧ Accessible small.osz (.mem (.sib 0 4 4)) small :=
  ⟨⟨by decide, by decide⟩, ⟨by decide, by decide⟩⟩

theorem witness_LeaWritesTheAddress : small.pfx.as32 = true := by decide

theorem witness_PushForms :
    PushFits small.osz small ∧ PushFits small.osz (small.setReg esp 64) ∧ PushFits small.osz (small.setReg esp 4) ∧
      Accessible small.osz (.reg 4) small :=
  ⟨by unfold PushFits; decide, by unfold PushFits; decide, by unfold PushFits; decide, trivial⟩

theorem witness_PopForms :
    PopFits small.osz small ∧ PopFits small16.osz small16 ∧
      Accessible small.osz (.mem (.baseDisp8 4 0xFC)) (small.setReg esp (small.reg esp + BitVec.ofNat 32 small.osz.bytes)) :=
  ⟨by unfold PopFits; decide, by unfold PopFits; decide, by decide, by decide⟩

theorem witness_LeaveReleasesTheFrame : small.pfx.opovr = false ∧ (small.reg ebp).toNat + 4 ≤ small.mem.capacity := by decide

theorem witness_StackFaultsOutsideMemory :
    (¬ PushFits small.osz (small.setReg esp 3) ∧ Accessible small.osz (.reg 0) (small.setReg esp 3)) ∧
      ¬ PopFits small.osz (small.setReg esp 61) ∧
      (PopFits small.osz small ∧ small.pfx.as32 = true ∧
        small.mem.capacity <
          (ea (.base 4) (small.setReg esp (small.reg esp + BitVec.ofNat 32 small.osz.bytes))).toNat + small.osz.bytes) ∧
      (small.pfx.opovr = false ∧ ¬ PushFits .w32 (small.setReg esp 3) ∧ ¬ PopFits .w32 (small.setReg esp 61) ∧
        small.mem.capacity < (ea (.disp32 61) small).toNat + 4 ∧
        small.mem.capacity < ((small.setReg ebp 61).reg ebp).toNat + 4) := by
  unfold PushFits PopFits
  exact ⟨⟨by decide, trivial⟩, by decide, by decide, by decide⟩

theorem witness_JumpsAddTheirOffset : small.pfx.opovr = false ∧ small16.pfx.opovr = true := by decide

theorem witness_ConditionalJumps : small.pfx.opovr = false ∧ small16.pfx.opovr = true := by decide

theorem witness_CallsAndReturn :
    small.pfx.opovr = false ∧ PushFits .w32 small ∧ Accessible .w32 (.mem (.disp32 60)) small ∧ PopFits .w32 small :=
  ⟨by decide, by unfold PushFits; decide, ⟨by decide, by decide⟩, by unfold PopFits; decide⟩

theorem witness_StosStoresOneItem :
    small.pfx.as32 = true ∧ small.pfx.repz = false ∧ small.pfx.repnz = false ∧
      (small.reg edi).toNat + small.osz.bytes ≤ small.mem.capacity ∧
      small.mem.capacity < ((small.setReg edi 61).reg edi).toNat + small.osz.bytes := by decide

/-- A repeated STOS of two items upwards, the last ones of memory. -/
def stosUp : State := (small.setReg edi 56).setPfx { PrefixState.initial with repz := true }

/-- A repeated STOS of two items downwards, to the first byte of memory. -/
def stosDown : State :=
  ((small.setReg edi 4).setPfx { PrefixState.initial with repnz := true }).setFlags (.ofWord 0x400)

theorem witness_StosRepeatsEcxTimes :
    (stosUp.pfx.as32 = true ∧ stosUp.pfx.repz = true ∧ stosUp.mem.capacity ≤ 2 ^ 32 ∧ stosUp.flags.df = false ∧
        (stosUp.reg ecx).toNat ≠ 0 ∧
        (stosUp.reg edi).toNat + (stosUp.reg ecx).toNat * stosUp.osz.bytes ≤ stosUp.mem.capacity) ∧
      (stosUp.mem.capacity < 2 ^ 32 ∧
        stosUp.mem.capacity <
          ((stosUp.setReg edi 57).reg edi).toNat + ((stosUp.setReg edi 57).reg ecx).toNat * stosUp.osz.bytes) ∧
      (stosDown.pfx.as32 = true ∧ stosDown.pfx.repnz = true ∧ stosDown.mem.capacity ≤ 2 ^ 32 ∧ stosDown.flags.df = true ∧
        (stosDown.reg ecx).toNat ≠ 0 ∧ ((stosDown.reg ecx).toNat - 1) * stosDown.osz.bytes ≤ (stosDown.reg edi).toNat ∧
        (stosDown.reg edi).toNat + stosDown.osz.bytes ≤ stosDown.mem.capacity) := by decide

/-- The state of `coded` after one prefix byte 0x67. -/
def coded67 (bs : List Byte) : State :=
  ((coded bs).begin.advance 1).setPfx { PrefixState.initial with adovr := true, as32 := false }

/-- The first byte at IP is `b`, in memory. -/
def startsWith (s : State) (b : Byte) : Bool := decide (s.ip.toNat < s.mem.capacity) && s.mem.byte s.ip.toNat == b

/-- The second byte at IP is `b`, in memory. -/
def secondIs (s : State) (b : Byte) : Bool :=
  decide ((s.ip + 1).toNat < s.mem.capacity) && s.mem.byte (s.ip + 1).toNat == b

theorem witness_SizePrefixRefusals :
    small16.pfx.opovr = true ∧ small16.pfx.as32 = true ∧ small67.pfx.as32 = false := by decide

theorem witness_StepRefusals_66 :
    PrefixRun 1 (coded [0x66, 0x0F, 0x8F]).begin (coded66 [0x66, 0x0F, 0x8F]) ∧
      (coded66 [0x66, 0x0F, 0x8F]).pfx.opovr = true ∧
      (startsWith (coded66 [0x66, 0xC3]) 0xC3 ∧ startsWith (coded66 [0x66, 0xEB]) 0xEB ∧ 0xEB#8 ∈ relOpcodes ∧
        startsWith (coded66 [0x66, 0xC9]) 0xC9) ∧
      (startsWith (coded66 [0x66, 0x0F, 0x80]) 0x0F ∧ secondIs (coded66 [0x66, 0x0F, 0x80]) 0x80 ∧
        secondIs (coded66 [0x66, 0x0F, 0x8F]) 0x8F) :=
  ⟨witness_PrefixRun _ (by decide), by decide, by decide, by decide⟩

theorem witness_StepRefusals_67 :
    PrefixRun 1 (coded [0x67, 0x8B, 0xBF]).begin (coded67 [0x67, 0x8B, 0xBF]) ∧
      (coded67 [0x67, 0x8B, 0xBF]).pfx.as32 = false ∧ startsWith (coded67 [0x67, 0xAB]) 0xAB ∧
      startsWith (coded67 [0x67, 0x8B, 0xBF]) 0x8B ∧ 0x8B#8 ∈ modrmOpcodes ∧ secondIs (coded67 [0x67, 0x8B, 0xBF]) 0xBF ∧
      startsWith (coded [0x8D, 0xC0]) 0x8D ∧ secondIs (coded [0x8D, 0xC0]) 0xC0 :=
  ⟨.cons (i := .addrSize) (by decide) rfl (.nil _), by decide⟩

theorem witness_StepRefusals_call :
    (coded66 [0x66, 0xFF, 0x13]).pfx.opovr = true ∧
      (Rm.mem (.base 3)).wf (coded66 [0x66, 0xFF, 0x13]).decodeMode = true ∧
      HoldsBytes (coded66 [0x66, 0xFF, 0x13]).mem (coded66 [0x66, 0xFF, 0x13]).ip
        (encode (coded66 [0x66, 0xFF, 0x13]).decodeMode (.callRm32 (.mem (.base 3)))) :=
  ⟨by decide, by decide, by decide, by decide, by decide⟩

/-- LEA with mod = 3 is refused whatever follows it (45_data_movement.md R359). -/
theorem test_step_refuses_lea_reg : refusedWith (step (ended [0x8D, 0xC0])) .leaReg = true := by decide
end

/-! PROOFS. What a completed instruction and a completed step can do, said once for all instructions; from it, that every
step keeps the invariant between steps (00_scope.md R9, 10_state.md R39, 49_dispatch.md R480). -/

namespace Sys2Proof.Machine

open Sys2Proof

/-! ## The shared forms of moves, division, stack and transfers -/

theorem chain_rmRead_ordinary {w : Width} {d : Rm} {s : State} {k : BitVec w.bits → Out State}
    (h : ∀ v, Ordinary NoRefusal s (k v)) : Ordinary (RmRefusal d s) s (chain (rmRead w d s) k) :=
  (rmRead_sound ..).chain fun v _ => (h v).mono (fun _ => id) (fun _ => id) fun _ => False.elim

theorem mulWith_plain (w : Width) (b : BitVec w.bits) (s : State) : PlainIp s (mulWith w b s) :=
  (writePair_plain ..).trans (mulFlags_plain ..)

theorem imulWith_plain (w : Width) (b : BitVec w.bits) (s : State) : PlainIp s (imulWith w b s) :=
  (writePair_plain ..).trans (mulFlags_plain ..)

/-- DIV and IDIV read their operand and then divide; every stop is one of 43_muldiv.md R297 or of the operand. -/
theorem chain_rmRead_division {w : Width} {d : Rm} {s : State} {k : BitVec w.bits → Out State}
    (h : ∀ v, Sound (PlainIp s) (DivisionFault s) NoRefusal (k v)) :
    Sound (PlainIp s) (DivisionFault s) (RmRefusal d s) (chain (rmRead w d s) k) := by
  have read := (rmRead_sound w d s).mono (F' := DivisionFault s) (fun _ => id) (fun _ => Or.inl) fun _ => id
  exact read.chain fun v _ => (h v).mono (fun _ => id) (fun _ => id) fun _ => False.elim

theorem addressedRm_sound {N : State → Prop} {F : Fault → Prop} {R : Refusal → Prop} {d : Rm} {s : State}
    {k : Out State} (hR : ∀ r, RmRefusal d s r → R r) (h : Sound N F R k) : Sound N F R (addressedRm d s k) := by
  cases d with
  | reg r => exact h
  | mem o =>
    rw [addressedRm, addressed]
    split
    next => exact h
    next ha => exact .of_refused (hR _ ⟨by simpa using ha, rfl, o, rfl⟩)

theorem execPopRv_ordinary (r : RegIdx) (s : State) : Ordinary NoRefusal s (execPopRv r s) :=
  (pop_sound ..).chain fun _ hp => .of_next (hp.trans (writeReg_plain ..))

theorem execPopRmv_ordinary (x : RegIdx) (d : Rm) (s : State) : Ordinary (RmRefusal d s) s (execPopRmv x d s) := by
  have popThenWrite : Ordinary (RmRefusal d s) s (chain (pop s.osz s) fun p => rmWrite s.osz d p.1 p.2) :=
    Sound.chain ((pop_sound s.osz s).mono (fun _ => id) (fun _ => id) fun _ => False.elim) fun _ hp =>
      Ordinary.after hp (rmWrite_sound ..) fun _ => RmRefusal.of_plain hp
  exact addressedRm_sound (fun _ => id) popThenWrite

theorem execLeave_ordinary (s : State) :
    Ordinary (fun r => s.pfx.opovr = true ∧ r = .opsize16Leave) s (execLeave s) := by
  unfold execLeave
  split
  next hp => exact .of_refused ⟨hp, rfl⟩
  next =>
    exact Ordinary.after (R := NoRefusal) (setReg_plain esp (s.reg ebp) s)
      ((pop_sound ..).chain fun _ hp => .of_next (hp.trans (setReg_plain ..))) fun _ => False.elim

/-- What the byte 66 before a control transfer refuses (47_control_transfer.md R441). -/
def TransferRefusal (s : State) (r : Refusal) : Prop := s.pfx.opovr = true ∧ r = .opsize16Transfer

theorem transfer_sound {N : State → Prop} {F : Fault → Prop} {R : Refusal → Prop} {s : State} {k : Out State}
    (hR : ∀ r, TransferRefusal s r → R r) (h : Sound N F R k) : Sound N F R (transfer s k) := by
  unfold transfer
  split
  next hp => exact .of_refused (hR _ ⟨hp, rfl⟩)
  next => exact h

theorem setIp_plain (s : State) (v : Word) : Plain s (s.setIp v) := ⟨rfl, rfl, rfl, rfl, rfl, ⟨rfl, rfl, rfl⟩, id⟩

theorem jump_sound (rel : Word) (s : State) : Sound (Plain s) (OobTrue s) (TransferRefusal s) (jump rel s) :=
  transfer_sound (fun _ => id) (.of_next (setIp_plain ..))

theorem jumpIf_sound (c : Cond) (rel : Word) (s : State) :
    Sound (Plain s) (OobTrue s) (TransferRefusal s) (jumpIf c rel s) := by
  refine transfer_sound (fun _ => id) ?_
  split
  next => exact .of_next (setIp_plain ..)
  next => exact .of_next (.refl s)

theorem callTo_sound {R : Refusal → Prop} (target : Word) (s : State) :
    Sound (Plain s) (OobTrue s) R (callTo target s) :=
  Sound.chain ((push_ordinary ..).mono (fun _ => id) (fun _ => id) fun _ => False.elim) fun _ hp =>
    .of_next (hp.1.trans (setIp_plain ..))

theorem execCallRel32_sound (rel : Word) (s : State) :
    Sound (Plain s) (OobTrue s) (TransferRefusal s) (execCallRel32 rel s) :=
  transfer_sound (fun _ => id) (callTo_sound ..)

theorem execCallRm32_sound (d : Rm) (s : State) :
    Sound (Plain s) (OobTrue s) (fun r => RmRefusal d s r ∨ TransferRefusal s r) (execCallRm32 d s) :=
  addressedRm_sound (fun _ => .inl) <| transfer_sound (fun _ => .inr) <|
    Sound.chain ((rmRead_sound ..).mono (fun _ => id) (fun _ => id) fun _ => .inl) fun _ _ => callTo_sound ..

theorem execRet_sound (s : State) : Sound (Plain s) (OobTrue s) (TransferRefusal s) (execRet s) :=
  transfer_sound (fun _ => id) <|
    Sound.chain ((pop_sound ..).mono (fun _ => id) (fun _ => id) fun _ => False.elim) fun _ hp =>
      .of_next (hp.1.trans (setIp_plain ..))

theorem inPort_plain (port : BitVec 16) (s : State) :
    PlainIp (s.logCall (.portIn port (portIn port s).1)) (inPort port s) := writeReg_plain ..

/-- The items of STOS, one or ECX of them, before it consumes the repeat bits (48_string_io.md R451). -/
theorem stosItems_ordinary (s : State) :
    Ordinary NoRefusal s (if s.repeating then stosRepeat s.osz (s.reg ecx).toNat s else stosOnce s.osz s) := by
  split
  next => exact stosRepeat_ordinary ..
  next => exact stosOnce_ordinary ..

/-! ## What an instruction can do -/

/-- What a completed instruction has done from `s` to `t`, by its kind. -/
inductive Effect (i : Instr) (s t : State) : Prop where
  /-- No transfer, PFX byte, STOS or host call: IP, PFX and the host are left alone. -/
  | plain (hc : callsHost i = false) (hs : i ≠ .stos) (h : PlainIp s t)
  /-- A control transfer, which may set IP (47_control_transfer.md R390, R420, R422). -/
  | transfer (hi : isTransfer i = true) (h : Plain s t)
  /-- One of the eleven bytes that write PFX and nothing else (30_encoding.md R134). -/
  | prefixByte (hi : i.isPfxByte = true) (p : PrefixState) (h : t = s.setPfx p)
  /-- STOS, which consumes the repeat bits last (48_string_io.md R451). -/
  | stos (hi : i = .stos) (u : State) (hu : PlainIp s u) (h : t = clearRepeat u)
  /-- IN or OUT, one call to a port (48_string_io.md R455). -/
  | port (hi : callsHost i = true) (c : HostCall) (h : PlainIp (s.logCall c) t)
  /-- INT, one call to the dispatcher (47_control_transfer.md R440). -/
  | interrupt (v : Byte) (hi : i = .intImm8 v) (h : t = dispatchInt v s)

/-- The faults a meaning raises: a true out-of-bounds record, and the divide faults from DIV and IDIV only
(60_exceptions.md R500). -/
def InstrFault (i : Instr) (s : State) (r : Fault) : Prop :=
  OobTrue s r ∨ ((r = .divideByZero s.ipStart ∨ r = .divisionOverflow s.ipStart) ∧ ∃ d, i = .divRmv d ∨ i = .idivRmv d)

/-- Any refusal; which of them an instruction makes, the lemmas about the shared forms say. -/
def AnyRefusal (_ : Refusal) : Prop := True

theorem Sound.plainEffect {i : Instr} {R : Refusal → Prop} {s : State} {o : Out State}
    (h : Sound (PlainIp s) (OobTrue s) R o) (hc : callsHost i = false) (hs : i ≠ .stos) :
    Sound (Effect i s) (InstrFault i s) AnyRefusal o :=
  h.mono (fun _ => .plain hc hs) (fun _ => .inl) fun _ _ => trivial

theorem Sound.transferEffect {i : Instr} {R : Refusal → Prop} {s : State} {o : Out State}
    (h : Sound (Plain s) (OobTrue s) R o) (hi : isTransfer i = true) :
    Sound (Effect i s) (InstrFault i s) AnyRefusal o :=
  h.mono (fun _ => .transfer hi) (fun _ => .inl) fun _ _ => trivial

theorem Sound.divisionEffect {i : Instr} {R : Refusal → Prop} {s : State} {o : Out State}
    (h : Sound (PlainIp s) (DivisionFault s) R o) (hi : ∃ d, i = .divRmv d ∨ i = .idivRmv d) :
    Sound (Effect i s) (InstrFault i s) AnyRefusal o := by
  refine h.mono (fun _ => ?_) (fun _ => Or.imp_right fun hr => ⟨hr, hi⟩) fun _ _ => trivial
  obtain ⟨d, rfl | rfl⟩ := hi
  · exact .plain rfl nofun
  · exact .plain rfl nofun

theorem execStos_effect (s : State) : Sound (Effect .stos s) (InstrFault .stos s) AnyRefusal (execStos s) := by
  unfold execStos
  split
  next =>
    exact Sound.chain ((stosItems_ordinary s).mono (fun _ => id) (fun _ => .inl) fun _ _ => trivial) fun u hu =>
      .of_next (.stos rfl u hu rfl)
  next => exact .of_refused trivial

/-- What every meaning can do, said once: instruction by instruction, through the shared form the meaning is built on. -/
theorem exec_sound (i : Instr) (s : State) : Sound (Effect i s) (InstrFault i s) AnyRefusal (exec i s) := by
  unfold exec
  cases i with
  | addRm8R8 d r | addRmvRv d r | orRm8R8 d r | orRmvRv d r | andRm8R8 d r | andRmvRv d r | subRm8R8 d r | subRmvRv d r
  | xorRm8R8 d r | xorRmvRv d r | cmpRm8R8 d r | cmpRmvRv d r | testRm8R8 d r | testRmvRv d r =>
    exact (aluRmReg_ordinary ..).plainEffect rfl nofun
  | addR8Rm8 r d | addRvRmv r d | orR8Rm8 r d | orRvRmv r d | andR8Rm8 r d | andRvRmv r d | subR8Rm8 r d | subRvRmv r d
  | xorR8Rm8 r d | xorRvRmv r d | cmpR8Rm8 r d | cmpRvRmv r d =>
    exact (aluRegRm_ordinary ..).plainEffect rfl nofun
  | addAlImm8 imm | addEaxImmv imm | orAlImm8 imm | orEaxImmv imm | andAlImm8 imm | andEaxImmv imm | subAlImm8 imm
  | subEaxImmv imm | xorAlImm8 imm | xorEaxImmv imm | cmpAlImm8 imm | cmpEaxImmv imm | testAlImm8 imm | testEaxImmv imm =>
    exact (aluAccImm_ordinary ..).plainEffect rfl nofun
  | addRmvImmv d imm | addRmvImm8s d imm | orRmvImmv d imm | orRmvImm8s d imm | andRmvImmv d imm | andRmvImm8s d imm
  | subRmvImmv d imm | subRmvImm8s d imm | xorRmvImmv d imm | xorRmvImm8s d imm | cmpRmvImmv d imm | cmpRmvImm8s d imm
  | testRmvImmv d imm =>
    exact (aluRmImm_ordinary ..).plainEffect rfl nofun
  | notRmv d => exact (unaryRm_ordinary _ _ _ (fun _ _ => .refl) s).plainEffect rfl nofun
  | negRmv d => exact (unaryRm_ordinary _ _ _ flagsNeg_stored s).plainEffect rfl nofun
  | incRv _ | incRmv _ => exact (unaryRm_ordinary _ _ _ flagsInc_stored s).plainEffect rfl nofun
  | decRv _ | decRmv _ => exact (unaryRm_ordinary _ _ _ flagsDec_stored s).plainEffect rfl nofun
  | mulRmv d => exact (chain_rmRead_ordinary fun _ => .of_next (mulWith_plain ..)).plainEffect rfl nofun
  | imulRmv d => exact (chain_rmRead_ordinary fun _ => .of_next (imulWith_plain ..)).plainEffect rfl nofun
  | divRmv d => exact (chain_rmRead_division fun _ => divWith_sound ..).divisionEffect ⟨d, .inl rfl⟩
  | idivRmv d => exact (chain_rmRead_division fun _ => idivWith_sound ..).divisionEffect ⟨d, .inr rfl⟩
  | rolRmvImm8 d _ | rolRmvOne d | rolRmvCl d | rorRmvImm8 d _ | rorRmvOne d | rorRmvCl d | rclRmvImm8 d _ | rclRmvOne d
  | rclRmvCl d | rcrRmvImm8 d _ | rcrRmvOne d | rcrRmvCl d | shlRmvImm8 d _ | shlRmvOne d | shlRmvCl d | shrRmvImm8 d _
  | shrRmvOne d | shrRmvCl d | sarRmvImm8 d _ | sarRmvOne d | sarRmvCl d =>
    exact (shiftRm_ordinary ..).plainEffect rfl nofun
  | movRm8R8 d _ | movRmvRv d _ | movRm8Imm8 _ d _ | movRmvImmv _ d _ => exact (rmWrite_sound ..).plainEffect rfl nofun
  | movR8Rm8 r d | movRvRmv r d =>
    exact (chain_rmRead_ordinary fun _ => .of_next (writeReg_plain ..)).plainEffect rfl nofun
  | movR8Imm8 r _ | movRvImmv r _ => exact .of_next (.plain rfl nofun (writeReg_plain ..))
  | lea r m =>
    exact (addressed_sound (F := OobTrue s) (o := m) (.of_next (writeReg_plain ..))).plainEffect rfl nofun
  | pushRv _ | pushImmv _ | pushImm8s _ => exact (push_ordinary ..).plainEffect rfl nofun
  | pushRmv d => exact (chain_rmRead_ordinary fun _ => push_ordinary ..).plainEffect rfl nofun
  | popRv r => exact (execPopRv_ordinary ..).plainEffect rfl nofun
  | popRmv x d => exact (execPopRmv_ordinary ..).plainEffect rfl nofun
  | leave => exact (execLeave_ordinary s).plainEffect rfl nofun
  | jmpRel8 _ | jmpRel32 _ => exact (jump_sound ..).transferEffect rfl
  | joRel8 _ | jnoRel8 _ | jbRel8 _ | jaeRel8 _ | jeRel8 _ | jneRel8 _ | jbeRel8 _ | jaRel8 _ | jsRel8 _ | jnsRel8 _
  | jpRel8 _ | jnpRel8 _ | jlRel8 _ | jgeRel8 _ | jleRel8 _ | jgRel8 _ | joRel32 _ | jnoRel32 _ | jbRel32 _ | jaeRel32 _
  | jeRel32 _ | jneRel32 _ | jbeRel32 _ | jaRel32 _ | jsRel32 _ | jnsRel32 _ | jpRel32 _ | jnpRel32 _ | jlRel32 _
  | jgeRel32 _ | jleRel32 _ | jgRel32 _ => exact (jumpIf_sound ..).transferEffect rfl
  | callRel32 _ => exact (execCallRel32_sound ..).transferEffect rfl
  | callRm32 d => exact (execCallRm32_sound ..).transferEffect rfl
  | ret => exact (execRet_sound s).transferEffect rfl
  | intImm8 v => exact .of_next (.interrupt v rfl rfl)
  | stos => exact execStos_effect s
  | inAlImm8 _ | inAlDx => exact .of_next (.port rfl _ (inPort_plain ..))
  | outImm8Al _ | outDxAl => exact .of_next (.port rfl _ (.refl _))
  | segEs | segCs | segSs | segDs | segFs | segGs | opSize | addrSize | lock | repnz | repz =>
    exact .of_next (.prefixByte rfl _ rfl)

theorem exec_effect {i : Instr} {s t : State} (h : exec i s = .next t) : Effect i s t := (exec_sound i s).next t h

/-! ## What every instruction does to memory -/

/-- The capacity of memory stays and its canonical form is not lost (00_scope.md R9). -/
structure MemKept (s t : State) : Prop where
  capacity : t.mem.capacity = s.mem.capacity
  wf : s.mem.wf = true → t.mem.wf = true

theorem MemKept.of_mem_eq {s t : State} (h : t.mem = s.mem) : MemKept s t := ⟨by rw [h], by rw [h]; exact id⟩

theorem MemKept.trans {s t u : State} (h : MemKept s t) (g : MemKept t u) : MemKept s u :=
  ⟨g.capacity.trans h.capacity, g.wf ∘ h.wf⟩

theorem Plain.memKept {s t : State} (h : Plain s t) : MemKept s t := ⟨h.capacity, h.wf⟩

theorem dispatchInt_mem (v : Byte) (s : State) :
    (dispatchInt v s).mem = s.mem.hostWrites (Config.intDispatch v s.view).writes := by
  simp only [dispatchInt]
  split
  next => rfl
  next => rfl

theorem dispatchInt_memKept (v : Byte) (s : State) : MemKept s (dispatchInt v s) :=
  ⟨by rw [dispatchInt_mem, Memory.hostWrites_capacity], fun h => by
    rw [dispatchInt_mem]; exact Memory.hostWrites_wf h _⟩

theorem Effect.memKept {i : Instr} {s t : State} (h : Effect i s t) : MemKept s t := by
  cases h with
  | plain _ _ h => exact h.1.memKept
  | transfer _ h => exact h.memKept
  | prefixByte _ p h => subst h; exact .of_mem_eq rfl
  | stos _ u hu h => subst h; exact hu.1.memKept.trans (.of_mem_eq rfl)
  | port _ c h =>
    have logged : MemKept s (s.logCall c) := .of_mem_eq rfl
    exact logged.trans h.1.memKept
  | interrupt v _ h => subst h; exact dispatchInt_memKept v s

theorem exec_memKept {i : Instr} {s t : State} (h : exec i s = .next t) : MemKept s t := (exec_effect h).memKept

/-! ## What a step can do -/

/-- A cycle that completes has run some PFX bytes, then one instruction, then the common tail (49_dispatch.md R476,
R485). -/
theorem cycle_eq_next {fuel : Nat} {s t : State} (h : cycle exec fuel s = .next t) :
    ∃ n u i len v, PrefixRun n s u ∧ decodeAt u = .ok i len ∧ exec i (u.advance len) = .next v ∧ t = commonTail v := by
  induction fuel generalizing s with
  | zero => simp [cycle] at h
  | succ fuel ih =>
    unfold cycle at h
    split at h
    next i hd =>
      obtain ⟨s1, he, hc⟩ := chain_eq_next h
      obtain ⟨n, u, j, len, v, hr, hrest⟩ := ih hc
      exact ⟨n + 1, u, j, len, v, .cons hd he hr, hrest⟩
    next i len hd =>
      obtain ⟨v, he, ht⟩ := chain_eq_next h
      exact ⟨0, s, i, len, v, .nil s, hd, he, by simpa using ht.symm⟩
    next => simp [raiseOutOfBounds] at h
    next => simp [raiseUnimplemented] at h
    next => simp at h

theorem step_eq_next {s t : State} (h : step s = .next t) :
    ∃ n u i len v, PrefixRun n s.begin u ∧ decodeAt u = .ok i len ∧ exec i (u.advance len) = .next v ∧
      t = commonTail v := cycle_eq_next h

theorem PrefixRun.memKept {n : Nat} {s t : State} (h : PrefixRun n s t) : MemKept s t := by
  induction h with
  | nil s => exact .of_mem_eq rfl
  | @cons n s s1 t i hd he hr ih =>
    have one : MemKept (s.advance 1) s1 := exec_memKept he
    exact MemKept.trans ⟨one.capacity, one.wf⟩ ih

theorem step_memKept {s t : State} (h : step s = .next t) : MemKept s t := by
  obtain ⟨n, u, i, len, v, hr, -, he, rfl⟩ := step_eq_next h
  have toInstr : MemKept s (u.advance len) := ⟨hr.memKept.capacity, hr.memKept.wf⟩
  exact (toInstr.trans (exec_memKept he)).trans (.of_mem_eq rfl)

/-! ## The invariant between steps -/

theorem PrefixState.tail_betweenSteps (p : PrefixState) : p.tail.BetweenSteps :=
  ⟨rfl, rfl, rfl, rfl, rfl, rfl, rfl, rfl, rfl, rfl, rfl⟩

theorem PrefixState.initial_betweenSteps : PrefixState.initial.BetweenSteps := PrefixState.tail_betweenSteps .initial

theorem step_betweenSteps {s t : State} (h : step s = .next t) : t.pfx.BetweenSteps := by
  obtain ⟨n, u, i, len, v, -, -, -, rfl⟩ := step_eq_next h
  exact v.pfx.tail_betweenSteps

/-- Settles O11: PFX is set by the common tail, and memory is kept by the PFX bytes before the instruction and by the instruction. -/
theorem stepKeepsTheInvariant : Obligations.StepKeepsTheInvariant := by
  intro s t hs h
  obtain ⟨-, hwf, hlow, hhigh⟩ := hs
  obtain ⟨hcap, hwf'⟩ := step_memKept h
  exact ⟨step_betweenSteps h, hwf' hwf, by rwa [hcap], by rwa [hcap]⟩

theorem launch_inv {capacity : Nat} (regs : Vector Word 8) (flags : Flags) (ip : Word) (hlow : 1 ≤ capacity)
    (hhigh : capacity ≤ 2 ^ 32) : (State.launch capacity regs flags ip).Inv :=
  ⟨PrefixState.initial_betweenSteps, rfl, hlow, hhigh⟩

theorem launch_byte (capacity : Nat) (regs : Vector Word 8) (flags : Flags) (ip : Word) (a : Nat) :
    (State.launch capacity regs flags ip).mem.byte a = 0 := rfl

/-- Settles O12: reset is a launch with the default capacity, and a launch has no memory cell listed. -/
theorem resetHasTheInvariant : Obligations.ResetHasTheInvariant := by
  have defaultAllowed : 1 ≤ Config.defaultCapacity ∧ Config.defaultCapacity ≤ 2 ^ 32 := by decide
  refine ⟨launch_inv _ _ _ defaultAllowed.1 defaultAllowed.2, launch_byte _ _ _ _, ?_⟩
  intro capacity regs flags ip hlow hhigh
  exact ⟨launch_inv regs flags ip hlow hhigh, launch_byte _ _ _ _, rfl, rfl, rfl⟩

end Sys2Proof.Machine

/-! PROOFS. The decoder reads back every encoding and reports the field at which the end of memory cuts one off, said once
for all instructions; from it, that the step runs what is encoded at IP (49_dispatch.md R485). -/

namespace Sys2Proof

open Sys2Proof.Machine

/-! ## Reading a sequence of fields -/

/-- `run`, started at any offset, reads the bytes `bs`, fetched in fields of the widths `ws`, as the operands of `i`; where
a field cannot be fetched it reports that field (30_encoding.md R102). -/
structure Reads (run : Fetch → Nat → Decoded) (i : Instr) (bs : List Byte) (ws : List Nat) : Prop where
  whole : ∀ f off, AtBytes f off bs → run f off = .ok i (off + bs.length)
  cut : ∀ f off before w after, ws = before ++ w :: after → AtBytes f off (bs.take before.sum) →
    f (off + before.sum) w = none → run f off = .truncated (off + before.sum) w

theorem Reads.done (i : Instr) : Reads (fun _ off => .ok i off) i [] [] :=
  ⟨fun _ _ _ => rfl, fun _ _ before _ _ hw => by simp at hw⟩

/-- A field of `n` bytes, and what is read after it. -/
theorem Reads.field {n : Nat} {k : Word → Fetch → Nat → Decoded} {i : Instr} {fb bs : List Byte} {ws : List Nat}
    (hn : fb.length = n) (h : Reads (k (leValue fb)) i bs ws) :
    Reads (fun f off => withField f off n fun v => k v f (off + n)) i (fb ++ bs) (n :: ws) where
  whole f off hb := by
    have rest : AtBytes f (off + n) bs := hn ▸ hb.drop
    rw [withField_at hb hn, h.whole f _ rest, List.length_append, hn, Nat.add_assoc]
  cut f off before w after hw hb hf := by
    cases before with
    | nil =>
      obtain ⟨rfl, -⟩ := List.cons.inj hw
      exact withField_none hf _
    | cons x before =>
      obtain ⟨rfl, hws⟩ := List.cons.inj hw
      rw [List.sum_cons] at hb hf ⊢
      rw [← hn, List.take_length_add_append] at hb
      have rest : AtBytes f (off + n) (bs.take before.sum) := hn ▸ hb.drop
      rw [← Nat.add_assoc] at hf ⊢
      rw [withField_at hb hn, h.cut f _ before w after hws rest hf]

theorem withByte_eq_withField (f : Fetch) (off : Nat) (k : Byte → Decoded) :
    withByte f off k = withField f off 1 fun v => k (v.setWidth 8) := rfl

theorem leValue_singleton (b : Byte) : (leValue [b]).setWidth 8 = b := by
  simp [leValue]

/-- A byte, and what is read after it. -/
theorem Reads.byte {k : Byte → Fetch → Nat → Decoded} {i : Instr} {b : Byte} {bs : List Byte} {ws : List Nat}
    (h : Reads (k b) i bs ws) :
    Reads (fun f off => withByte f off fun v => k v f (off + 1)) i (b :: bs) (1 :: ws) :=
  Reads.field (fb := [b]) (k := fun v => k (v.setWidth 8)) rfl (by rwa [leValue_singleton])

/-- The first of two lists of fields is cut, or it is whole and the second one is. -/
theorem fields_split {xs ys before after : List Nat} {w : Nat} (h : xs ++ ys = before ++ w :: after) :
    (∃ mid, xs = before ++ w :: mid) ∨ ∃ before', before = xs ++ before' ∧ ys = before' ++ w :: after := by
  obtain ⟨zs, hb, hy⟩ | ⟨zs, hx, hw⟩ := List.append_eq_append_iff.1 h
  · exact .inr ⟨zs, hb, hy⟩
  · cases zs with
    | nil => exact .inr ⟨[], by simpa using hx.symm, by simpa using hw.symm⟩
    | cons z zs =>
      obtain ⟨rfl, -⟩ := List.cons.inj hw
      exact .inl ⟨zs, hx⟩

/-- ModRM, SIB and displacement (41_addressing.md R181), and what is read after them. -/
theorem Reads.modrm {m : DecodeMode} {k : Byte → RegIdx → Rm → Fetch → Nat → Decoded} {i : Instr} {reg : RegIdx} {d : Rm}
    {bs : List Byte} {ws : List Nat} (hd : d.wf m = true) (h : ∀ b, Reads (k b reg d) i bs ws) :
    Reads (fun f off => withModrm f m off fun b reg d next => k b reg d f next) i (encodeRm reg d ++ bs)
      (d.fieldWidths ++ ws) where
  whole f off hb := by
    obtain ⟨b, hread⟩ := withModrm_at hd hb fun b reg d next => k b reg d f next
    rw [hread, (h b).whole f _ hb.drop, List.length_append, Nat.add_assoc]
  cut f off before w after hw hb hf := by
    obtain ⟨mid, hx⟩ | ⟨before', rfl, hy⟩ := fields_split hw
    · have inOperand : before.sum ≤ (encodeRm reg d).length := by
        rw [encodeRm_fields, hx, List.sum_append]
        exact Nat.le_add_right ..
      rw [List.take_append_of_le_length inOperand] at hb
      exact withModrm_cut hd hx hb hf _
    · rw [List.sum_append, ← encodeRm_fields reg] at hb hf ⊢
      rw [List.take_length_add_append] at hb
      rw [← Nat.add_assoc] at hf ⊢
      obtain ⟨b, hread⟩ := withModrm_at hd hb fun b reg d next => k b reg d f next
      rw [hread, (h b).cut f _ before' w after hy hb.drop hf]

/-! ## What each entry of the tables reads -/

/-- A well-formed immediate of kind `iv` is read back (30_encoding.md R108). -/
theorem leValue_encodeIv {m : DecodeMode} {imm : Word} (h : immvWf m imm = true) : leValue (encodeIv m imm) = imm := by
  unfold encodeIv DecodeMode.ivBytes
  split
  next => exact leValue_leBytes_four imm
  next hos =>
    have small : imm.toNat < 2 ^ 16 := by simpa [immvWf, hos] using h
    apply BitVec.eq_of_getLsbD_eq
    intro k _
    rw [leValue_leBytes_getLsbD]
    by_cases hk : k < 16
    · simp [hk]
    · have high : imm.getLsbD k = false :=
        Nat.testBit_lt_two_pow (small.trans_le (Nat.pow_le_pow_right (by decide) (by omega)))
      simp [hk, high]

theorem encodeIv_ivBytes (m : DecodeMode) (imm : Word) : (encodeIv m imm).length = m.ivBytes := leBytes_length ..

/-- One byte at the end of an encoding: an immediate of kind `ib` or `ibs`, or a short offset. -/
theorem Reads.lastByte (mk : Byte → Instr) (v : Byte) :
    Reads (fun f off => withByte f off fun v => .ok (mk v) (off + 1)) (mk v) [v] [1] :=
  .byte (k := fun v _ off => .ok (mk v) off) (.done _)

/-- An immediate of kind `iv` at the end of an encoding. -/
theorem Reads.lastIv {m : DecodeMode} (mk : Word → Instr) {imm : Word} (h : immvWf m imm = true) :
    Reads (fun f off => withField f off m.ivBytes fun v => .ok (mk v) (off + m.ivBytes)) (mk imm) (encodeIv m imm)
      [m.ivBytes] := by
  have read := Reads.field (k := fun v _ off => .ok (mk v) off) (encodeIv_ivBytes m imm) (.done _)
  rwa [leValue_encodeIv h, List.append_nil] at read

/-- An offset of four bytes at the end of an encoding. -/
theorem Reads.lastWord (mk : Word → Instr) (v : Word) :
    Reads (fun f off => withField f off 4 fun v => .ok (mk v) (off + 4)) (mk v) (leBytes 4 v) [4] := by
  have read := Reads.field (k := fun v _ off => .ok (mk v) off) (leBytes_length 4 v) (.done _)
  rwa [leValue_leBytes_four, List.append_nil] at read

/-- An operand at the end of an encoding. -/
theorem Reads.lastRm {m : DecodeMode} {k : Byte → RegIdx → Rm → Nat → Decoded} {i : Instr} {reg : RegIdx} {d : Rm}
    (hd : d.wf m = true) (hk : ∀ b next, k b reg d next = .ok i next) :
    Reads (fun f off => withModrm f m off k) i (encodeRm reg d) d.fieldWidths := by
  have operand := Reads.modrm (k := fun b reg d _ next => k b reg d next) (i := i) (reg := reg) (bs := []) (ws := []) hd
    fun b => by simpa only [hk] using Reads.done i
  rwa [List.append_nil, List.append_nil] at operand

/-- The byte `b` selects an entry of the table, and that entry reads the rest of the bytes `bs` as the operands of `i`;
`ws` are the widths of all the fields. -/
inductive EncodedBy (m : DecodeMode) (t : List Row) (i : Instr) : List Byte → List Nat → Prop where
  | mk {b : Byte} {e : Entry} {rest : List Byte} {ws : List Nat} (hl : lookup t b = some e)
      (hr : Reads (fun f off => runEntry f m b off e) i rest ws) : EncodedBy m t i (b :: rest) (1 :: ws)

/-- What a group opcode does after its ModRM byte (49_dispatch.md R472). -/
def runGroup (f : Fetch) (m : DecodeMode) (b : Byte) (subs : List (Option SubEntry)) (modrmByte : Byte) (reg : RegIdx)
    (d : Rm) (next : Nat) : Decoded :=
  match subs.getD reg.toNat none with
  | some s => runSub f m d next s
  | none => .unmapped [b, modrmByte]

theorem runEntry_group (f : Fetch) (m : DecodeMode) (b : Byte) (off : Nat) (subs : List (Option SubEntry)) :
    runEntry f m b off (.group subs) = withModrm f m off (runGroup f m b subs) := rfl

theorem runGroup_mapped {f : Fetch} {m : DecodeMode} {b modrmByte : Byte} {subs : List (Option SubEntry)} {reg : RegIdx}
    {d : Rm} {s : SubEntry} (hs : subs.getD reg.toNat none = some s) :
    runGroup f m b subs modrmByte reg d = fun next => runSub f m d next s := by
  funext next
  simp only [runGroup, hs]

namespace EncodedBy

variable {m : DecodeMode} {t : List Row} {b : Byte} {i : Instr} {reg : RegIdx} {d : Rm}

theorem nullary (hl : lookup t b = some (.nullary i)) : EncodedBy m t i [b] [1] := .mk hl (.done i)

theorem plusReg {mk : RegIdx → Instr} (hl : lookup t b = some (.plusReg mk)) (hi : mk (b.extractLsb' 0 3) = i) :
    EncodedBy m t i [b] [1] := hi ▸ .mk hl (.done _)

theorem ib {mk : Byte → Instr} {v : Byte} (hl : lookup t b = some (.ib mk)) : EncodedBy m t (mk v) [b, v] [1, 1] :=
  .mk hl (.lastByte mk v)

theorem plusRegIb {mk : RegIdx → Byte → Instr} {v : Byte} (hl : lookup t b = some (.plusRegIb mk))
    (hi : mk (b.extractLsb' 0 3) v = i) : EncodedBy m t i [b, v] [1, 1] := hi ▸ .mk hl (.lastByte _ v)

theorem iv {mk : Word → Instr} {imm : Word} (hl : lookup t b = some (.iv mk)) (h : immvWf m imm = true) :
    EncodedBy m t (mk imm) (b :: encodeIv m imm) [1, m.ivBytes] := .mk hl (.lastIv mk h)

theorem plusRegIv {mk : RegIdx → Word → Instr} {imm : Word} (hl : lookup t b = some (.plusRegIv mk))
    (hi : mk (b.extractLsb' 0 3) imm = i) (h : immvWf m imm = true) :
    EncodedBy m t i (b :: encodeIv m imm) [1, m.ivBytes] := hi ▸ .mk hl (.lastIv _ h)

theorem rel8 {mk : Byte → Instr} {rel : Byte} (hl : lookup t b = some (.rel8 mk)) (h : relWf m = true) :
    EncodedBy m t (mk rel) [b, rel] [1, 1] := by
  have allowed : m.opovr = false := by simpa [relWf] using h
  exact .mk hl (by simpa [runEntry, allowed] using Reads.lastByte mk rel)

theorem rel32 {mk : Word → Instr} {rel : Word} (hl : lookup t b = some (.rel32 mk)) (h : relWf m = true) :
    EncodedBy m t (mk rel) (b :: leBytes 4 rel) [1, 4] := by
  have allowed : m.opovr = false := by simpa [relWf] using h
  exact .mk hl (by simpa [runEntry, allowed] using Reads.lastWord mk rel)

theorem modrm {mk : RegIdx → Rm → Instr} (hl : lookup t b = some (.modrm mk)) (hi : mk reg d = i) (h : d.wf m = true) :
    EncodedBy m t i (b :: encodeRm reg d) (1 :: d.fieldWidths) :=
  .mk hl (by simp only [runEntry]; exact .lastRm h fun _ _ => by rw [hi])

theorem modrmIb {mk : RegIdx → Rm → Byte → Instr} {v : Byte} (hl : lookup t b = some (.modrmIb mk)) (h : d.wf m = true) :
    EncodedBy m t (mk reg d v) (b :: (encodeRm reg d ++ [v])) (1 :: (d.fieldWidths ++ [1])) :=
  .mk hl (by simp only [runEntry]; exact .modrm h fun _ => .lastByte _ v)

theorem modrmIv {mk : RegIdx → Rm → Word → Instr} {imm : Word} (hl : lookup t b = some (.modrmIv mk))
    (h : (d.wf m && immvWf m imm) = true) :
    EncodedBy m t (mk reg d imm) (b :: (encodeRm reg d ++ encodeIv m imm)) (1 :: (d.fieldWidths ++ [m.ivBytes])) := by
  obtain ⟨hd, himm⟩ := Bool.and_eq_true_iff.1 h
  exact .mk hl (by simp only [runEntry]; exact .modrm hd fun _ => .lastIv _ himm)

theorem modrmMem {mk : RegIdx → MemOperand → Instr} {o : MemOperand} (hl : lookup t b = some (.modrmMem mk))
    (h : o.wf m = true) : EncodedBy m t (mk reg o) (b :: encodeMem reg o) (1 :: 1 :: o.fieldWidths) :=
  .mk hl (by simp only [runEntry]; exact .lastRm (d := .mem o) h fun _ _ => rfl)

theorem group {subs : List (Option SubEntry)} {s : SubEntry} {rest : List Byte} {ws : List Nat}
    (hl : lookup t b = some (.group subs)) (hs : subs.getD reg.toNat none = some s) (hd : d.wf m = true)
    (hr : Reads (fun f next => runSub f m d next s) i rest ws) :
    EncodedBy m t i (b :: (encodeRm reg d ++ rest)) (1 :: (d.fieldWidths ++ ws)) :=
  .mk hl (by simp only [runEntry_group]; exact .modrm hd fun _ => by simpa only [runGroup_mapped hs] using hr)

theorem groupRm {subs : List (Option SubEntry)} {mk : Rm → Instr} (hl : lookup t b = some (.group subs))
    (hs : subs.getD reg.toNat none = some (.rm mk)) (h : d.wf m = true) :
    EncodedBy m t (mk d) (b :: encodeRm reg d) (1 :: d.fieldWidths) := by
  simpa using group hl hs h (.done (mk d))

theorem groupIb {subs : List (Option SubEntry)} {mk : Rm → Byte → Instr} {v : Byte} (hl : lookup t b = some (.group subs))
    (hs : subs.getD reg.toNat none = some (.rmIb mk)) (h : d.wf m = true) :
    EncodedBy m t (mk d v) (b :: (encodeRm reg d ++ [v])) (1 :: (d.fieldWidths ++ [1])) :=
  group hl hs h (.lastByte (mk d) v)

theorem groupIv {subs : List (Option SubEntry)} {mk : Rm → Word → Instr} {imm : Word}
    (hl : lookup t b = some (.group subs)) (hs : subs.getD reg.toNat none = some (.rmIv mk))
    (h : (d.wf m && immvWf m imm) = true) :
    EncodedBy m t (mk d imm) (b :: (encodeRm reg d ++ encodeIv m imm)) (1 :: (d.fieldWidths ++ [m.ivBytes])) := by
  obtain ⟨hd, himm⟩ := Bool.and_eq_true_iff.1 h
  exact group hl hs hd (.lastIv (mk d) himm)

end EncodedBy

/-! ## Every encoding -/

/-- How an instruction is encoded: by the primary table, or by 0F and the second one (49_dispatch.md R470, R471). -/
inductive Encoded (m : DecodeMode) (i : Instr) : List Byte → List Nat → Prop where
  | one {bs : List Byte} {ws : List Nat} (h : EncodedBy m primaryTable i bs ws) : Encoded m i bs ws
  | two {bs : List Byte} {ws : List Nat} (h : EncodedBy m secondTable i bs ws) : Encoded m i (0x0F#8 :: bs) (1 :: ws)

/-- The opcodes that hold a register in their low three bits (30_encoding.md R103). -/
theorem plusR_low (r : RegIdx) :
    ∀ op ∈ [0x40#8, 0x48#8, 0x50#8, 0x58#8, 0xB0#8, 0xB8#8], (plusR op r).extractLsb' 0 3 = r := by
  revert r; decide

/-- Rows of mask F8 are selected whatever the low three bits are (30_encoding.md R111). -/
theorem lookup_plusR (r : RegIdx) :
    lookup primaryTable (plusR 0x40#8 r) = some (.plusReg .incRv) ∧
      lookup primaryTable (plusR 0x48#8 r) = some (.plusReg .decRv) ∧
      lookup primaryTable (plusR 0x50#8 r) = some (.plusReg .pushRv) ∧
      lookup primaryTable (plusR 0x58#8 r) = some (.plusReg .popRv) ∧
      lookup primaryTable (plusR 0xB0#8 r) = some (.plusRegIb .movR8Imm8) ∧
      lookup primaryTable (plusR 0xB8#8 r) = some (.plusRegIv .movRvImmv) := by
  obtain rfl | rfl | rfl | rfl | rfl | rfl | rfl | rfl : r = 0 ∨ r = 1 ∨ r = 2 ∨ r = 3 ∨ r = 4 ∨ r = 5 ∨ r = 6 ∨ r = 7 := by
    revert r; decide
  all_goals exact ⟨rfl, rfl, rfl, rfl, rfl, rfl⟩

/-- Every well-formed instruction is encoded as the tables say: constructor by constructor, through the entry that its
opcode selects. -/
theorem encode_encoded {m : DecodeMode} {i : Instr} (h : i.wf m = true) (hp : i.isPfxByte = false) :
    Encoded m i (encode m i) (i.fieldWidths m) := by
  cases i with
  | addRm8R8 d r | addRmvRv d r | addR8Rm8 r d | addRvRmv r d | orRm8R8 d r | orRmvRv d r | orR8Rm8 r d | orRvRmv r d
  | andRm8R8 d r | andRmvRv d r | andR8Rm8 r d | andRvRmv r d | subRm8R8 d r | subRmvRv d r | subR8Rm8 r d | subRvRmv r d
  | xorRm8R8 d r | xorRmvRv d r | xorR8Rm8 r d | xorRvRmv r d | cmpRm8R8 d r | cmpRmvRv d r | cmpR8Rm8 r d | cmpRvRmv r d
  | testRm8R8 d r | testRmvRv d r | movRm8R8 d r | movRmvRv d r | movR8Rm8 r d | movRvRmv r d | popRmv r d =>
    exact .one (.modrm rfl rfl h)
  | addAlImm8 _ | orAlImm8 _ | andAlImm8 _ | subAlImm8 _ | xorAlImm8 _ | cmpAlImm8 _ | testAlImm8 _ | pushImm8s _
  | intImm8 _ | inAlImm8 _ | outImm8Al _ => exact .one (.ib rfl)
  | addEaxImmv _ | orEaxImmv _ | andEaxImmv _ | subEaxImmv _ | xorEaxImmv _ | cmpEaxImmv _ | testEaxImmv _
  | pushImmv _ => exact .one (.iv rfl h)
  | addRmvImmv d _ | orRmvImmv d _ | andRmvImmv d _ | subRmvImmv d _ | xorRmvImmv d _ | cmpRmvImmv d _
  | testRmvImmv d _ => exact .one (.groupIv rfl rfl h)
  | addRmvImm8s d _ | orRmvImm8s d _ | andRmvImm8s d _ | subRmvImm8s d _ | xorRmvImm8s d _ | cmpRmvImm8s d _
  | rolRmvImm8 d _ | rorRmvImm8 d _ | rclRmvImm8 d _ | rcrRmvImm8 d _ | shlRmvImm8 d _ | shrRmvImm8 d _
  | sarRmvImm8 d _ => exact .one (.groupIb rfl rfl h)
  | notRmv d | negRmv d | mulRmv d | imulRmv d | divRmv d | idivRmv d | incRmv d | decRmv d | rolRmvOne d | rolRmvCl d
  | rorRmvOne d | rorRmvCl d | rclRmvOne d | rclRmvCl d | rcrRmvOne d | rcrRmvCl d | shlRmvOne d | shlRmvCl d
  | shrRmvOne d | shrRmvCl d | sarRmvOne d | sarRmvCl d | pushRmv d | callRm32 d => exact .one (.groupRm rfl rfl h)
  | incRv r | decRv r | pushRv r | popRv r =>
    obtain ⟨hinc, hdec, hpush, hpop, -, -⟩ := lookup_plusR r
    exact .one (.plusReg ‹_› (congrArg _ (plusR_low r _ (by decide))))
  | movR8Imm8 r v =>
    obtain ⟨-, -, -, -, hmov, -⟩ := lookup_plusR r
    exact .one (.plusRegIb hmov (by rw [plusR_low r _ (by decide)]))
  | movRvImmv r v =>
    obtain ⟨-, -, -, -, -, hmov⟩ := lookup_plusR r
    exact .one (.plusRegIv hmov (by rw [plusR_low r _ (by decide)]) h)
  | movRm8Imm8 _ d _ => exact .one (.modrmIb rfl h)
  | movRmvImmv _ d _ => exact .one (.modrmIv rfl h)
  | lea _ o => exact .one (.modrmMem rfl h)
  | leave | ret | stos | inAlDx | outDxAl => exact .one (.nullary rfl)
  | jmpRel8 _ | joRel8 _ | jnoRel8 _ | jbRel8 _ | jaeRel8 _ | jeRel8 _ | jneRel8 _ | jbeRel8 _ | jaRel8 _ | jsRel8 _
  | jnsRel8 _ | jpRel8 _ | jnpRel8 _ | jlRel8 _ | jgeRel8 _ | jleRel8 _ | jgRel8 _ => exact .one (.rel8 rfl h)
  | jmpRel32 _ | callRel32 _ => exact .one (.rel32 rfl h)
  | joRel32 _ | jnoRel32 _ | jbRel32 _ | jaeRel32 _ | jeRel32 _ | jneRel32 _ | jbeRel32 _ | jaRel32 _ | jsRel32 _
  | jnsRel32 _ | jpRel32 _ | jnpRel32 _ | jlRel32 _ | jgeRel32 _ | jleRel32 _ | jgRel32 _ => exact .two (.rel32 rfl h)
  | segEs | segCs | segSs | segDs | segFs | segGs | opSize | addrSize | lock | repnz | repz => simp [Instr.isPfxByte] at hp

/-! ## The whole decoder -/

/-- The escape reads no operands, so no instruction is encoded by it alone (49_dispatch.md R471). -/
theorem Reads.ne_escape {m : DecodeMode} {b : Byte} {e : Entry} {i : Instr} {bs : List Byte} {ws : List Nat}
    (h : Reads (fun f off => runEntry f m b off e) i bs ws) : e ≠ .escape := by
  rintro rfl
  exact nomatch h.whole _ 0 (listFetch_atBytes bs)

/-- What the decoder does after an opcode byte that selects an entry of the primary table (49_dispatch.md R470). -/
theorem decode_primary {f : Fetch} {m : DecodeMode} {b : Byte} {rest : List Byte} {e : Entry} (hb : AtBytes f 0 (b :: rest))
    (hl : lookup primaryTable b = some e) (he : e ≠ .escape) : decode f m = runEntry f m b 1 e := by
  rw [decode, withByte_at hb, hl]
  cases e with
  | escape => exact absurd rfl he
  | _ => rfl

/-- What the decoder does with the byte after 0F (49_dispatch.md R471). -/
def runSecond (f : Fetch) (m : DecodeMode) (b2 : Byte) : Decoded :=
  match lookup secondTable b2 with
  | none => .unmapped [0x0F#8, b2]
  | some e => runEntry f m b2 2 e

theorem decode_escape {f : Fetch} {m : DecodeMode} {rest : List Byte} (hb : AtBytes f 0 (0x0F#8 :: rest)) :
    decode f m = withByte f 1 (runSecond f m) := by
  have escape : lookup primaryTable 0x0F#8 = some .escape := rfl
  rw [decode, withByte_at hb, escape]
  rfl

/-- What the decoder does after 0F and a byte that selects an entry of the second table (49_dispatch.md R471). -/
theorem decode_second {f : Fetch} {m : DecodeMode} {b : Byte} {rest : List Byte} {e : Entry}
    (hb : AtBytes f 0 (0x0F#8 :: b :: rest)) (hl : lookup secondTable b = some e) :
    decode f m = runEntry f m b 2 e := by
  rw [decode_escape hb, withByte_at hb.tail, runSecond, hl]

theorem Encoded.decode_whole {f : Fetch} {m : DecodeMode} {i : Instr} {bs : List Byte} {ws : List Nat}
    (h : Encoded m i bs ws) (hb : AtBytes f 0 bs) : decode f m = .ok i bs.length := by
  cases h with
  | one h =>
    obtain ⟨hl, hr⟩ := h
    rw [decode_primary hb hl hr.ne_escape, hr.whole f 1 hb.tail, List.length_cons, Nat.add_comm]
  | two h =>
    obtain ⟨hl, hr⟩ := h
    rw [decode_second hb hl, hr.whole f 2 hb.tail.tail, List.length_cons, List.length_cons]
    congr 1
    omega

theorem decode_cut_first {f : Fetch} {m : DecodeMode} (hf : f 0 1 = none) : decode f m = .truncated 0 1 :=
  withByte_none hf _

/-- A cut encoding is reported at the field that is cut (30_encoding.md R102, 60_exceptions.md R507). -/
theorem Encoded.decode_cut {f : Fetch} {m : DecodeMode} {i : Instr} {bs : List Byte} {before after : List Nat} {w : Nat}
    (h : Encoded m i bs (before ++ w :: after)) (hb : AtBytes f 0 (bs.take before.sum)) (hf : f before.sum w = none) :
    decode f m = .truncated before.sum w := by
  generalize hw : before ++ w :: after = ws at h
  cases before with
  | nil =>
    obtain rfl : w = 1 := by
      cases h with
      | one h => cases h; exact (List.cons.inj hw).1
      | two h => exact (List.cons.inj hw).1
    exact decode_cut_first hf
  | cons x before =>
    rw [List.sum_cons] at hb hf ⊢
    cases h with
    | one h =>
      obtain ⟨hl, hr⟩ := h
      obtain ⟨rfl, hws⟩ := List.cons.inj hw
      rw [Nat.add_comm 1, List.take_succ_cons] at hb
      rw [decode_primary hb hl hr.ne_escape, hr.cut f 1 before w after hws.symm hb.tail hf]
    | two h =>
      obtain ⟨hl, hr⟩ := h
      obtain ⟨rfl, hws⟩ := List.cons.inj hw
      rw [Nat.add_comm 1, List.take_succ_cons] at hb
      cases before with
      | nil =>
        obtain ⟨rfl, -⟩ := List.cons.inj hws
        rw [decode_escape hb]
        exact withByte_none hf _
      | cons y before =>
        obtain ⟨rfl, hrest⟩ := List.cons.inj hws
        rw [List.sum_cons] at hb hf ⊢
        rw [Nat.add_comm 1, List.take_succ_cons] at hb
        rw [← Nat.add_assoc] at hf ⊢
        rw [decode_second hb hl, hr.cut f 2 before w after hrest.symm hb.tail.tail hf]

/-- The decoder reads back every encoding (30_encoding.md R100). -/
theorem decode_encode {f : Fetch} {m : DecodeMode} {i : Instr} (h : i.wf m = true) (hp : i.isPfxByte = false)
    (hb : AtBytes f 0 (encode m i)) : decode f m = .ok i (encode m i).length := (encode_encoded h hp).decode_whole hb

end Sys2Proof

namespace Sys2Proof.Machine

open Sys2Proof

/-- Settles O8: memory fetches the encoding at IP, which the decoder reads back, so the cycle runs `exec` and the tail. -/
theorem encodedInstructionInMemoryRuns : Obligations.EncodedInstructionInMemoryRuns := by
  intro s i hwf hp hb
  have decoded : decodeAt s.begin = .ok i (encode s.decodeMode i).length := decode_encode hwf hp (memFetch_atBytes hb)
  rw [step, stepWith, cycle, decoded]

end Sys2Proof.Machine

/-! PROOFS. What the instructions leave unchanged, what the host's writes keep, the views of the register file, and the bits
of PFX (10_state.md). -/

namespace Sys2Proof.Machine

open Sys2Proof

/-! ## The bytes that set PFX -/

/-- The bits of PFX, in the order of 10_state.md R40. -/
theorem PrefixState.toBits_getLsbD (p : PrefixState) (k : Nat) :
    p.toBits.getLsbD k = [p.segEs, p.segCs, p.segSs, p.segDs, p.segFs, p.segGs, p.opovr, p.adovr, p.lock, p.repnz, p.repz,
      p.os32, p.as32].getD k false := BitVec.getLsbD_ofBoolListLE

/-- A PFX byte is done when each bit of the PFX it writes is the old one, set or cleared. -/
theorem prefixDone_of_bits {set clear : BitVec 13} {s : State} {p : PrefixState}
    (h : ∀ k < 13, p.toBits.getLsbD k = ((s.pfx.toBits.getLsbD k || set.getLsbD k) && !clear.getLsbD k)) :
    PrefixDone set clear s (.next (s.setPfx p)) :=
  ⟨_, rfl, BitVec.eq_of_getLsbD_eq fun k hk => by simpa [hk] using h k hk, rfl⟩

/-- Settles O10: bit by bit of PFX, for each of the eleven bytes. -/
theorem prefixBytesSetTheirBits : Obligations.PrefixBytesSetTheirBits := by
  intro s
  refine ⟨?_, ?_, ?_, ?_, ?_, ?_, ?_, ?_, ?_, ?_, ?_⟩
  all_goals
    refine prefixDone_of_bits fun k hk => ?_
    rw [PrefixState.toBits_getLsbD, PrefixState.toBits_getLsbD]
    interval_cases k <;> simp

/-! ## The views of the register file -/

/-- A byte view is in the low byte of registers 0 to 3, or in their second byte (10_state.md R24). -/
theorem readReg_byte (i : RegIdx) (s : State) :
    readReg .w8 i s = (s.reg (byteOwner i)).extractLsb' (viewLow .w8 i) 8 := by
  by_cases hi : i.toNat < 4
  · simp [readReg, viewLow, byteOwner, hi]
  · simp [readReg, viewLow, hi]

theorem readReg_eq_extract (w : Width) (i : RegIdx) (s : State) :
    readReg w i s = (s.reg (regOwner w i)).extractLsb' (viewLow w i) w.bits := by
  cases w with
  | w8 => exact readReg_byte i s
  | w16 => rfl
  | w32 => exact BitVec.extractLsb'_eq_self.symm

theorem toNat_append_add {m n : Nat} (x : BitVec m) (y : BitVec n) : (x ++ y).toNat = x.toNat * 2 ^ n + y.toNat := by
  rw [BitVec.toNat_append, ← Nat.shiftLeft_add_eq_or_of_lt y.isLt, Nat.shiftLeft_eq]

/-- The register after a write of its low byte view (10_state.md R24). -/
theorem writeReg_low_toNat {i : RegIdx} (hi : i.toNat < 4) (v : Byte) (s : State) :
    ((writeReg .w8 i v s).reg i).toNat = (s.reg i).toNat / 2 ^ 8 * 2 ^ 8 + v.toNat := by
  have owner : byteOwner i = i := by rw [byteOwner, if_pos hi]
  have bound := (s.reg i).isLt
  rw [writeReg, if_pos hi, owner, State.setReg_reg_same, toNat_append_add, BitVec.extractLsb'_toNat,
    Nat.shiftRight_eq_div_pow]
  omega

/-- The register after a write of its high byte view (10_state.md R24). -/
theorem writeReg_high_toNat {i : RegIdx} (hi : i.toNat < 4) (v : Byte) (s : State) :
    ((writeReg .w8 (i + 4) v s).reg i).toNat =
      (s.reg i).toNat / 2 ^ 16 * 2 ^ 16 + v.toNat * 2 ^ 8 + (s.reg i).toNat % 2 ^ 8 := by
  obtain ⟨notLow, owner⟩ : ¬ (i + 4).toNat < 4 ∧ byteOwner (i + 4) = i := by revert i; decide
  have bound := (s.reg i).isLt
  rw [writeReg, if_neg notLow, owner, State.setReg_reg_same, toNat_append_add, toNat_append_add, BitVec.extractLsb'_toNat,
    BitVec.extractLsb'_toNat, Nat.shiftRight_eq_div_pow, Nat.shiftRight_eq_div_pow]
  omega

/-- Settles O23: a view is a slice of its owner, and the owner after both byte writes, as a number, has the two bytes in its
low half. -/
theorem registerViewsAreFields : Obligations.RegisterViewsAreFields := by
  refine ⟨fun w i s k hk => ?_, writeReg_written, fun i hi lo s hlow => ?_⟩
  · rw [readReg_eq_extract, BitVec.getLsbD_extractLsb', decide_eq_true hk, Bool.true_and]
  · have both := writeReg_low_toNat hlow lo (writeReg .w8 (i + 4) hi s)
    rw [writeReg_high_toNat hlow] at both
    have hiByte := hi.isLt
    have loByte := lo.isLt
    rw [readReg_eq_extract, BitVec.extractLsb'_toNat, regOwner, both]
    simp only [viewLow, Width.bits, Nat.shiftRight_zero]
    omega

/-! ## What the host writes between steps -/

theorem State.hostWrite_pfx (s : State) (w : HostWrite) : (s.hostWrite w).pfx = s.pfx := by
  cases w with
  | reg | flags | ip | byte => rfl

theorem State.hostWrite_memKept (s : State) (w : HostWrite) : MemKept s (s.hostWrite w) := by
  cases w with
  | reg | flags | ip => exact .of_mem_eq rfl
  | byte a v => exact ⟨Memory.hostWrites_capacity .., fun h => Memory.hostWrites_wf h _⟩

/-- What keeps PFX and the form of memory keeps the invariant between steps. -/
theorem State.Inv.of_kept {s t : State} (h : s.Inv) (hp : t.pfx = s.pfx) (hm : MemKept s t) : t.Inv := by
  obtain ⟨hpfx, hwf, hlow, hhigh⟩ := h
  exact ⟨by rwa [hp], hm.wf hwf, by rwa [hm.capacity], by rwa [hm.capacity]⟩

/-- Settles O13, by induction on the list of writes: no write touches PFX, and a byte goes only inside memory. -/
theorem hostWritesKeepTheInvariant : Obligations.HostWritesKeepTheInvariant := by
  intro s ws
  induction ws generalizing s with
  | nil => exact ⟨id, rfl⟩
  | cons w ws ih =>
    obtain ⟨keeps, pfx⟩ := ih (s.hostWrite w)
    exact ⟨fun h => keeps (h.of_kept (s.hostWrite_pfx w) (s.hostWrite_memKept w)), pfx.trans (s.hostWrite_pfx w)⟩

/-! ## What an instruction leaves unchanged -/

/-- INT applies the dispatcher's answer, records the call and sets the notice, nothing else (47_control_transfer.md R440). -/
theorem dispatchInt_eq (v : Byte) (s : State) :
    ∃ n, dispatchInt v s = ((s.applyReply (Config.intDispatch v s.view)).logCall
      (.intDispatch v (Config.intDispatch v s.view).handled)).setNotice n := by
  simp only [dispatchInt]
  split
  next => exact ⟨s.notice, rfl⟩
  next => exact ⟨_, rfl⟩

@[simp] theorem dispatchInt_ip (v : Byte) (s : State) : (dispatchInt v s).ip = s.ip := by
  obtain ⟨n, hn⟩ := dispatchInt_eq v s; rw [hn]; rfl

@[simp] theorem dispatchInt_pfx (v : Byte) (s : State) : (dispatchInt v s).pfx = s.pfx := by
  obtain ⟨n, hn⟩ := dispatchInt_eq v s; rw [hn]; rfl

@[simp] theorem dispatchInt_ipStart (v : Byte) (s : State) : (dispatchInt v s).ipStart = s.ipStart := by
  obtain ⟨n, hn⟩ := dispatchInt_eq v s; rw [hn]; rfl

/-- Settles O14: of all effects only that of INT sets TF, IF or DF. -/
theorem onlyIntWritesStoredFlags : Obligations.OnlyIntWritesStoredFlags := by
  intro i s t h hint
  cases exec_effect h with
  | plain _ _ h => exact h.1.flags
  | transfer _ h => exact h.flags
  | prefixByte _ p h => subst h; exact .refl _
  | stos _ u hu h => subst h; exact hu.1.flags
  | port _ c h => exact h.1.flags
  | interrupt v hi _ => exact absurd hi (hint v)

/-- Settles O15: of the effects that leave PFX alone none is that of STOS. -/
theorem onlyPrefixesAndStosWritePfx : Obligations.OnlyPrefixesAndStosWritePfx := by
  intro i s t h hp
  cases exec_effect h with
  | plain _ hs h => rw [if_neg hs]; exact h.1.pfx
  | transfer hi h => rw [if_neg (by rintro rfl; exact nomatch hi)]; exact h.pfx
  | prefixByte hi p h => rw [hp] at hi; exact nomatch hi
  | stos hi u hu h => rw [if_pos hi, ← hu.1.pfx, h]; rfl
  | port hi c h => rw [if_neg (by rintro rfl; exact nomatch hi)]; exact h.1.pfx
  | interrupt v hi h => rw [if_neg (by rw [hi]; nofun), h, dispatchInt_pfx]

/-- Settles O17: only the effect of a control transfer sets IP. -/
theorem nonTransfersKeepIp : Obligations.NonTransfersKeepIp := by
  intro i s t h ht
  cases exec_effect h with
  | plain _ _ h => exact h.2
  | transfer hi _ => rw [ht] at hi; exact nomatch hi
  | prefixByte _ p h => rw [h, State.setPfx_ip]
  | stos _ u hu h => rw [h]; exact hu.2
  | port _ c h => exact h.2
  | interrupt v _ h => rw [h, dispatchInt_ip]

end Sys2Proof.Machine

/-! PROOFS. The records of faults are true, and a fetch past the end of memory faults at the field fetched
(60_exceptions.md R500, R501, R507, R512). -/

namespace Sys2Proof

open Sys2Proof.Machine

/-! ## What the decoder reports as cut off -/

/-- If `r` reports a field as cut off, then that field cannot be fetched, and it has 1, 2 or 4 bytes. -/
structure TruncatedTruly (f : Fetch) (r : Decoded) : Prop where
  cut : ∀ off n, r = .truncated off n → f off n = none ∧ (n = 1 ∨ n = 2 ∨ n = 4)

namespace TruncatedTruly

variable {f : Fetch} {m : DecodeMode} {off n : Nat}

theorem ok (i : Instr) (len : Nat) : TruncatedTruly f (.ok i len) := ⟨nofun⟩
theorem pfxByte (i : Instr) : TruncatedTruly f (.pfxByte i) := ⟨nofun⟩
theorem unmapped (bytes : List Byte) : TruncatedTruly f (.unmapped bytes) := ⟨nofun⟩
theorem refused (why : DecodeRefusal) : TruncatedTruly f (.refused why) := ⟨nofun⟩

theorem field {k : Word → Decoded} (hn : n = 1 ∨ n = 2 ∨ n = 4) (h : ∀ v, TruncatedTruly f (k v)) :
    TruncatedTruly f (withField f off n k) := by
  unfold withField
  split
  next v _ => exact h v
  next hf =>
    refine ⟨fun off' n' e => ?_⟩
    obtain ⟨rfl, rfl⟩ := Decoded.truncated.inj e
    exact ⟨hf, hn⟩

theorem byte {k : Byte → Decoded} (h : ∀ v, TruncatedTruly f (k v)) : TruncatedTruly f (withByte f off k) :=
  field (.inl rfl) fun _ => h _

theorem word {k : Word → Decoded} (h : ∀ v, TruncatedTruly f (k v)) : TruncatedTruly f (withField f off 4 k) :=
  field (.inr (.inr rfl)) h

theorem iv {k : Word → Decoded} (h : ∀ v, TruncatedTruly f (k v)) : TruncatedTruly f (withField f off m.ivBytes k) := by
  refine field ?_ h
  unfold DecodeMode.ivBytes
  split
  next => exact .inr (.inr rfl)
  next => exact .inr (.inl rfl)

theorem modrm {k : Byte → RegIdx → Rm → Nat → Decoded} (h : ∀ b reg d next, TruncatedTruly f (k b reg d next)) :
    TruncatedTruly f (withModrm f m off k) := by
  unfold withModrm
  refine byte fun b => ?_
  dsimp only
  split
  next => exact h ..
  next =>
    split
    next => exact refused _
    next =>
      split
      next =>
        refine byte fun s => ?_
        split
        next => exact h ..
        next =>
          split
          next => exact byte fun _ => h ..
          next => exact word fun _ => h ..
      next =>
        split
        next =>
          split
          next => exact word fun _ => h ..
          next => exact h ..
        next =>
          split
          next => exact byte fun _ => h ..
          next => exact word fun _ => h ..

theorem relative {r : Decoded} (h : TruncatedTruly f r) :
    TruncatedTruly f (if m.opovr then .refused .opsize16Transfer else r) := by
  split
  next => exact refused _
  next => exact h

theorem sub (d : Rm) (e : SubEntry) : TruncatedTruly f (runSub f m d off e) := by
  cases e with
  | rm mk => exact ok ..
  | rmIb mk => exact byte fun _ => ok ..
  | rmIv mk => exact iv fun _ => ok ..

theorem entry (b : Byte) (e : Entry) : TruncatedTruly f (runEntry f m b off e) := by
  cases e with
  | pfx i => exact pfxByte i
  | escape => exact unmapped _
  | nullary | plusReg => exact ok ..
  | ib | plusRegIb => exact byte fun _ => ok ..
  | iv | plusRegIv => exact iv fun _ => ok ..
  | rel8 mk => exact relative (byte fun _ => ok ..)
  | rel32 mk => exact relative (word fun _ => ok ..)
  | modrm mk =>
    rw [runEntry]
    exact modrm fun _ _ _ _ => ok ..
  | modrmIb mk =>
    rw [runEntry]
    exact modrm fun _ _ _ _ => byte fun _ => ok ..
  | modrmIv mk =>
    rw [runEntry]
    exact modrm fun _ _ _ _ => iv fun _ => ok ..
  | modrmMem mk =>
    rw [runEntry]
    refine modrm fun _ _ d _ => ?_
    cases d with
    | reg r => exact refused _
    | mem o => exact ok ..
  | group subs =>
    rw [runEntry_group]
    refine modrm fun _ _ _ _ => ?_
    unfold runGroup
    split
    next => exact sub ..
    next => exact unmapped _

end TruncatedTruly

/-- A field that the decoder reports as cut off cannot be fetched (30_encoding.md R102). -/
theorem decode_truncatedTruly (f : Fetch) (m : DecodeMode) : TruncatedTruly f (decode f m) := by
  unfold decode
  refine .byte fun b => ?_
  split
  next => exact .unmapped _
  next =>
    refine .byte fun b2 => ?_
    split
    next => exact .unmapped _
    next => exact .entry ..
  next => exact .entry ..

/-! ## Opcodes that a ModRM byte follows -/

/-- Whether an entry of the tables fetches a ModRM byte next (30_encoding.md R105). -/
def Entry.takesModrm : Entry → Bool
  | .modrm _ | .modrmIb _ | .modrmIv _ | .modrmMem _ | .group _ => true
  | _ => false

theorem runEntry_takesModrm {e : Entry} (h : e.takesModrm = true) (f : Fetch) (m : DecodeMode) (b : Byte) (off : Nat) :
    ∃ k, runEntry f m b off e = withModrm f m off k := by
  cases e with
  | modrm | modrmIb | modrmIv | modrmMem | group =>
    rw [runEntry]
    exact ⟨_, rfl⟩
  | _ => exact nomatch h

/-- The rows that these opcodes select, one opcode after the other. -/
theorem lookup_modrmOpcode : ∀ b ∈ modrmOpcodes, ∃ e, lookup primaryTable b = some e ∧ e.takesModrm = true := by
  unfold modrmOpcodes
  simp only [List.forall_mem_append]
  refine ⟨⟨?_, ?_⟩, ?_⟩
  all_goals
    repeat refine List.forall_mem_cons.2 ⟨⟨_, rfl, rfl⟩, ?_⟩
    exact List.forall_mem_nil _

theorem group_modrmOpcode {g : Byte} {reg : RegIdx} (h : (g, reg) ∈ unmappedGroupRegs) : g ∈ modrmOpcodes := by
  have checked : ∀ p ∈ unmappedGroupRegs, p.1 ∈ modrmOpcodes := by simp [unmappedGroupRegs, modrmOpcodes]
  exact checked _ h

/-- After an opcode that a ModRM byte follows the decoder goes on with that byte (49_dispatch.md R490). -/
theorem decode_modrmOpcode {f : Fetch} {m : DecodeMode} {b : Byte} {rest : List Byte} (hb : AtBytes f 0 (b :: rest))
    (h : b ∈ modrmOpcodes) : ∃ k, decode f m = withModrm f m 1 k := by
  obtain ⟨e, hl, he⟩ := lookup_modrmOpcode b h
  rw [decode_primary hb hl (by rintro rfl; exact nomatch he)]
  exact runEntry_takesModrm he f m b 1

theorem decode_modrmOpcode_cut {f : Fetch} {m : DecodeMode} {b : Byte} {rest : List Byte} (hb : AtBytes f 0 (b :: rest))
    (h : b ∈ modrmOpcodes) (hf : f 1 1 = none) : decode f m = .truncated 1 1 := by
  obtain ⟨k, hk⟩ := decode_modrmOpcode (m := m) hb h
  rw [hk]
  exact withByte_none hf _

theorem decode_escape_cut {f : Fetch} {m : DecodeMode} {rest : List Byte} (hb : AtBytes f 0 (0x0F#8 :: rest))
    (hf : f 1 1 = none) : decode f m = .truncated 1 1 := by
  rw [decode_escape hb]
  exact withByte_none hf _

/-- An operand cut off after an opcode that a ModRM byte follows is reported at the field that is cut, whatever the opcode
would do with it: the bounds come before `UnimplementedOpcode` (60_exceptions.md R507). -/
theorem decode_operand_cut {f : Fetch} {m : DecodeMode} {b : Byte} {reg : RegIdx} {d : Rm} {before after : List Nat} {w : Nat}
    (h : b ∈ modrmOpcodes) (hd : d.wf m = true) (hw : 1 :: d.fieldWidths = before ++ w :: after)
    (hb : AtBytes f 0 ((b :: encodeRm reg d).take before.sum)) (hf : f before.sum w = none) :
    decode f m = .truncated before.sum w := by
  cases before with
  | nil =>
    obtain ⟨rfl, -⟩ := List.cons.inj hw
    exact decode_cut_first hf
  | cons x before =>
    obtain ⟨rfl, hws⟩ := List.cons.inj hw
    rw [List.sum_cons] at hb hf ⊢
    rw [Nat.add_comm 1, List.take_succ_cons] at hb
    obtain ⟨k, hk⟩ := decode_modrmOpcode (m := m) hb h
    rw [hk, withModrm_cut hd hws hb.tail hf]

end Sys2Proof

namespace Sys2Proof.Machine

open Sys2Proof

/-! ## Where a fault comes from -/

theorem Effect.ipStart {i : Instr} {s t : State} (h : Effect i s t) : t.ipStart = s.ipStart := by
  cases h with
  | plain _ _ h => exact h.1.ipStart
  | transfer _ h => exact h.ipStart
  | prefixByte _ p h => rw [h, State.setPfx_ipStart]
  | stos _ u hu h => rw [h]; exact hu.1.ipStart
  | port _ c h => exact h.1.ipStart
  | interrupt v _ h => rw [h, dispatchInt_ipStart]

theorem PrefixRun.ipStart {n : Nat} {s t : State} (h : PrefixRun n s t) : t.ipStart = s.ipStart := by
  induction h with
  | nil s => rfl
  | cons _ he _ ih => exact ih.trans (exec_effect he).ipStart

/-- A fault record that names the address of the instruction, and, if out of bounds, an access that does run past the end of
memory (60_exceptions.md R512). -/
def TrueRecord (s : State) (r : Fault) : Prop :=
  r.ipStart = s.ipStart ∧ ∀ (p addr : Word) (n : Nat) (dir : Access), r = .outOfBoundsMemoryAccess p addr n dir →
    s.mem.capacity < addr.toNat + n ∧ (n = 1 ∨ n = 2 ∨ n = 4)

theorem OobTrue.trueRecord {s : State} {r : Fault} (h : OobTrue s r) : TrueRecord s r := by
  obtain ⟨addr, n, dir, rfl, hcap, hn⟩ := h
  refine ⟨rfl, fun p addr' n' dir' e => ?_⟩
  obtain ⟨-, rfl, rfl, -⟩ := Fault.outOfBoundsMemoryAccess.inj e
  exact ⟨hcap, hn⟩

theorem InstrFault.trueRecord {i : Instr} {s : State} {r : Fault} (h : InstrFault i s r) : TrueRecord s r := by
  obtain h | ⟨rfl | rfl, -⟩ := h
  · exact h.trueRecord
  · exact ⟨rfl, nofun⟩
  · exact ⟨rfl, nofun⟩

theorem TrueRecord.of_kept {s t : State} {r : Fault} (h : TrueRecord t r) (hip : t.ipStart = s.ipStart)
    (hcap : t.mem.capacity = s.mem.capacity) : TrueRecord s r := by
  rwa [TrueRecord, hip, hcap] at h

theorem memFetch_eq_none {m : Memory} {base : Word} {off n : Nat} (h : memFetch m base off n = none) :
    m.capacity < (base + BitVec.ofNat 32 off).toNat + n := by
  by_contra hin
  have inside : m.inBounds (base + BitVec.ofNat 32 off).toNat n = true := decide_eq_true (Nat.not_lt.1 hin)
  simp only [memFetch, inside, if_true, reduceCtorEq] at h

/-- A field reported as cut off runs past the end of memory (20_memory.md R61). -/
theorem decodeAt_truncated {s : State} {off n : Nat} (h : decodeAt s = .truncated off n) :
    OobTrue s (.outOfBoundsMemoryAccess s.ipStart (s.ip + BitVec.ofNat 32 off) n .read) := by
  obtain ⟨hf, hn⟩ := (decode_truncatedTruly _ _).cut off n h
  exact ⟨_, n, .read, rfl, memFetch_eq_none hf, hn⟩

/-- Every fault of a cycle has a true record: it is raised by a fetch, by an unmapped encoding or by a meaning, at a state
that the PFX bytes before it have led to. -/
theorem cycle_fault_trueRecord {fuel : Nat} {s : State} {r : Fault} (h : cycle exec fuel s = .fault r) :
    TrueRecord s r := by
  induction fuel generalizing s with
  | zero => exact nomatch h
  | succ fuel ih =>
    unfold cycle at h
    split at h
    next i _ =>
      obtain he | ⟨s1, he, hc⟩ := chain_eq_fault h
      · exact ((exec_sound i _).fault r he).trueRecord
      · exact (ih hc).of_kept (exec_effect he).ipStart (exec_memKept he).capacity
    next i len _ =>
      obtain he | ⟨t, -, ht⟩ := chain_eq_fault h
      · exact ((exec_sound i _).fault r he).trueRecord
      · exact nomatch ht
    next off n hd =>
      cases h
      exact (decodeAt_truncated hd).trueRecord
    next =>
      cases h
      exact ⟨rfl, nofun⟩
    next => exact nomatch h

theorem step_trueRecords (s : State) : TrueRecords s := fun _ => cycle_fault_trueRecord

/-! ## Fetches past the end of memory -/

/-- The loop over PFX bytes goes on where a run of them ends (49_dispatch.md R476). -/
theorem cycle_prefixRun {n : Nat} {s t : State} (h : PrefixRun n s t) (fuel : Nat) :
    cycle exec (fuel + n) s = cycle exec fuel t := by
  induction h with
  | nil s => rfl
  | cons hd he _ ih => rw [← Nat.add_assoc, cycle, hd]; exact (congrArg (chain · _) he).trans ih

/-- A step goes on where a run of PFX bytes from its start ends, with fuel left to decode there. -/
theorem step_prefixRun {n : Nat} {s t : State} (h : PrefixRun n s.begin t) (hn : n ≤ s.mem.capacity) :
    ∃ fuel, step s = cycle exec (fuel + 1) t := by
  obtain ⟨fuel, hfuel⟩ := Nat.exists_eq_add_of_le' hn
  exact ⟨fuel, by rw [← cycle_prefixRun h, step, stepWith, hfuel, Nat.add_right_comm]⟩

theorem step_truncated {n : Nat} {s t : State} (h : PrefixRun n s.begin t) (hn : n ≤ s.mem.capacity) {off w : Nat}
    (hd : decodeAt t = .truncated off w) :
    step s = .fault (.outOfBoundsMemoryAccess s.ip (t.ip + BitVec.ofNat 32 off) w .read) := by
  obtain ⟨fuel, hstep⟩ := step_prefixRun h hn
  have ipStart : t.ipStart = s.ip := h.ipStart
  rw [hstep, cycle, hd, ← ipStart]
  rfl

/-- The byte at IP, where it is in memory, is fetched (30_encoding.md R102). -/
theorem atBytes_first {s : State} (h : s.ip.toNat < s.mem.capacity) :
    AtBytes (memFetch s.mem s.ip) 0 [s.mem.byte s.ip.toNat] :=
  memFetch_atBytes ⟨h, s.ip.isLt, rfl⟩

/-- The field that `CutOff` names is not all in memory, those before it are. -/
theorem cutOff_fetch {s : State} {bs : List Byte} {before : List Nat} {w : Nat} (h : CutOff s bs before w) :
    AtBytes (memFetch s.mem s.ip) 0 (bs.take before.sum) ∧ memFetch s.mem s.ip before.sum w = none := by
  obtain ⟨hbytes, hspace, hcap⟩ := h
  refine ⟨memFetch_atBytes hbytes, memFetch_none ?_⟩
  rw [BitVec.toNat_add, BitVec.toNat_ofNat]
  omega

theorem fetchFaults_of_prefixRun {n : Nat} {s t : State} (h : PrefixRun n s.begin t) (hn : n ≤ s.mem.capacity) :
    FetchFaults s t := by
  refine ⟨fun off w => step_truncated h hn, fun hcap => ?_, fun hin hlast hb => ?_,
    fun i before w after hwf hp hw hcut => ?_, fun g reg d before w after hg hwf hw hcut => ?_⟩
  · refine step_truncated h hn (decode_cut_first (memFetch_none ?_))
    simpa using Nat.lt_succ_of_le hcap
  · have second : memFetch t.mem t.ip 1 1 = none := memFetch_none (Nat.lt_succ_of_le hlast)
    refine step_truncated h hn ?_
    have first := atBytes_first hin
    obtain hescape | hmodrm := List.mem_cons.1 hb
    · rw [hescape] at first
      exact decode_escape_cut first second
    · exact decode_modrmOpcode_cut first hmodrm second
  · obtain ⟨hbytes, hnone⟩ := cutOff_fetch hcut
    have encoded := encode_encoded hwf hp
    rw [hw] at encoded
    exact step_truncated h hn (encoded.decode_cut hbytes hnone)
  · obtain ⟨hbytes, hnone⟩ := cutOff_fetch hcut
    exact step_truncated h hn (decode_operand_cut (group_modrmOpcode hg) hwf hw hbytes hnone)

/-- Settles O18: a record is raised at a state that keeps the address and the capacity of the step's start, and each fetch
fault is the decoder's report of the field that is cut. -/
theorem faultRecordsAreTrue : Obligations.FaultRecordsAreTrue :=
  fun s => ⟨step_trueRecords s, fun _ _ => fetchFaults_of_prefixRun⟩

end Sys2Proof.Machine

/-! PROOFS. Memory as the accessors read and write it, the stack over it, and the operands that do not lie in it; which
instructions call the host (20_memory.md). -/

namespace Sys2Proof.Machine

open Sys2Proof

/-! ## Little-endian values -/

/-- A value is its lowest byte and 256 times the rest, cut to 32 bits (20_memory.md R62). -/
theorem leValue_cons_toNat (b : Byte) (bs : List Byte) :
    (leValue (b :: bs)).toNat = (b.toNat + 2 ^ 8 * (leValue bs).toNat) % 2 ^ 32 := by
  have disjoint : b.setWidth 32 &&& leValue bs <<< 8 = 0 := by
    apply BitVec.eq_of_getLsbD_eq
    intro k hk
    by_cases low : k < 8
    · simp [low]
    · simp [BitVec.getLsbD_of_ge b k (Nat.le_of_not_lt low)]
  rw [leValue, ← BitVec.add_eq_or_of_and_eq_zero _ _ disjoint, BitVec.toNat_add, BitVec.toNat_setWidth,
    BitVec.toNat_shiftLeft, Nat.shiftLeft_eq, Nat.mul_comm, ← Nat.add_mod]

theorem leValue_lt (bs : List Byte) : (leValue bs).toNat < 2 ^ (8 * bs.length) := by
  induction bs with
  | nil => simp [leValue]
  | cons b bs ih =>
    have byteBound := b.isLt
    have cut := Nat.mod_le (b.toNat + 2 ^ 8 * (leValue bs).toNat) (2 ^ 32)
    rw [leValue_cons_toNat, List.length_cons, Nat.mul_succ, Nat.pow_add]
    omega

/-- The value of up to four bytes of memory is their sum, the lowest address least significant (20_memory.md R62). -/
theorem Memory.leValue_bytes_toNat (m : Memory) (a : Nat) {n : Nat} (hn : n ≤ 4) :
    (leValue (m.bytes a n)).toNat = ((List.range n).map fun k => (m.byte (a + k)).toNat * 2 ^ (8 * k)).sum := by
  induction n generalizing a with
  | zero => rfl
  | succ n ih =>
    have restBound := leValue_lt (m.bytes (a + 1) n)
    have fits : 2 ^ (8 * n) ≤ 2 ^ 24 := Nat.pow_le_pow_right (by decide) (by omega)
    have byteBound := (m.byte a).isLt
    rw [Memory.bytes_length] at restBound
    have higher : ∀ k, (m.byte (a + (k + 1))).toNat * 2 ^ (8 * (k + 1)) =
        2 ^ 8 * ((m.byte (a + 1 + k)).toNat * 2 ^ (8 * k)) := fun k => by
      rw [Nat.add_right_comm a 1 k, Nat.mul_succ, Nat.pow_add, Nat.add_assoc]; ring
    rw [Memory.bytes, leValue_cons_toNat, Nat.mod_eq_of_lt (by omega), ih (a + 1) (by omega), List.range_succ_eq_map,
      List.map_cons, List.sum_cons, List.map_map, ← List.sum_map_mul_left]
    simp [Function.comp_def, higher]

theorem bytes_le_four (w : Width) : w.bytes ≤ 4 := by cases w <;> decide

theorem Memory.read_toNat (m : Memory) (a : Nat) (w : Width) :
    (m.read a w).toNat = ((List.range w.bytes).map fun k => (m.byte (a + k)).toNat * 2 ^ (8 * k)).sum := by
  have bits : 8 * w.bytes = w.bits := by cases w <;> rfl
  have bound := leValue_lt (m.bytes a w.bytes)
  rw [Memory.bytes_length, bits] at bound
  rw [Memory.read, BitVec.toNat_setWidth, Nat.mod_eq_of_lt bound, Memory.leValue_bytes_toNat m a (bytes_le_four w)]

/-- Byte `k` of a value is its bits from 8k on (20_memory.md R63). -/
theorem leBytes_getD {n k : Nat} (v : Word) (hk : k < n) : (leBytes n v).getD k 0 = v.extractLsb' (8 * k) 8 := by
  induction n generalizing v k with
  | zero => omega
  | succ n ih =>
    cases k with
    | zero =>
      apply BitVec.eq_of_getLsbD_eq
      intro j hj
      simp [leBytes, hj]
    | succ k =>
      rw [leBytes, List.getD_cons_succ, ih _ (by omega)]
      apply BitVec.eq_of_getLsbD_eq
      intro j hj
      simp only [BitVec.getLsbD_extractLsb', BitVec.getLsbD_ushiftRight, Nat.mul_succ]
      rw [← Nat.add_assoc, Nat.add_comm 8 (8 * k)]

theorem Memory.write_byte_inside (m : Memory) (a : Nat) {w : Width} (v : BitVec w.bits) {k : Nat} (hk : k < w.bytes) :
    (m.write a w v).byte (a + k) = v.extractLsb' (8 * k) 8 := by
  have inside : a ≤ a + k ∧ a + k < a + (leBytes w.bytes (v.setWidth 32)).length := by
    rw [leBytes_length]; omega
  have atMostFour := bytes_le_four w
  rw [Memory.write, Memory.writeBytes_byte, if_pos inside, Nat.add_sub_cancel_left, leBytes_getD _ hk]
  apply BitVec.eq_of_getLsbD_eq
  intro j hj
  have low : 8 * k + j < 32 := by omega
  simp [low]

/-! ## What the updates of the state keep -/

theorem chain_of_next {α β : Type} {o : Out α} {a : α} {k : α → Out β} (h : o = .next a) : chain o k = k a := by
  rw [h, chain_next]

theorem chain_of_fault {α β : Type} {o : Out α} {r : Fault} {k : α → Out β} (h : o = .fault r) :
    chain o k = .fault r := by rw [h, chain_fault]

/-- Every flag is as before and so is all else but registers and memory. -/
def RestKept (s t : State) : Prop := t.flags = s.flags ∧ SameElse s t

theorem RestKept.trans {s t u : State} (h : RestKept s t) (g : RestKept t u) : RestKept s u := by
  obtain ⟨hflags, ⟨hpfx, hcap, hstart, hnotice, hcalls⟩, hip, hfree⟩ := h
  obtain ⟨gflags, ⟨gpfx, gcap, gstart, gnotice, gcalls⟩, gip, gfree⟩ := g
  exact ⟨gflags.trans hflags, ⟨gpfx.trans hpfx, gcap.trans hcap, gstart.trans hstart, gnotice.trans hnotice,
    gcalls.trans hcalls⟩, gip.trans hip, gfree.trans hfree⟩

theorem setReg_restKept (i : RegIdx) (v : Word) (s : State) : RestKept s (s.setReg i v) :=
  ⟨rfl, ⟨rfl, rfl, rfl, rfl, rfl⟩, rfl, rfl⟩

theorem setMem_restKept {m : Memory} {s : State} (h : m.capacity = s.mem.capacity) : RestKept s (s.setMem m) :=
  ⟨rfl, ⟨rfl, h, rfl, rfl, rfl⟩, rfl, rfl⟩

theorem rmWritten_restKept (w : Width) (d : Rm) (v : BitVec w.bits) (s : State) : RestKept s (rmWritten w d v s) :=
  ⟨by simp, ⟨by simp, by simp, by simp, by simp, by simp⟩, by simp, by simp⟩

/-! ## The accessors -/

/-- Settles O24: the value read is the sum of the bytes read. -/
theorem memoryReadsLittleEndian : Obligations.MemoryReadsLittleEndian := fun w a s =>
  ⟨fun h => ⟨_, load_of_inBounds h, s.mem.read_toNat a.toNat w⟩, load_of_outOfBounds⟩

/-- Settles O25: a store replaces memory by one with the value's bytes in their place, and replaces nothing else. -/
theorem memoryWritesEachByte : Obligations.MemoryWritesEachByte := by
  intro w a v s
  refine ⟨fun h => ⟨_, store_of_inBounds h, fun k hk => ?_, fun b hb => ?_, fun i => rfl, ?_⟩, store_of_outOfBounds⟩
  · exact Memory.write_byte_inside s.mem a.toNat v hk
  · exact Memory.write_byte_outside s.mem w v hb
  · exact setMem_restKept (Memory.write_capacity ..)

/-! ## Push and pop -/

/-- What a push with room in memory does (20_memory.md R70). -/
theorem push_done {w : Width} {s : State} (v : BitVec w.bits) (h : PushFits w s) : PushDone w v s (push w v s) := by
  refine ⟨_, push_eq_next.2 ⟨h, rfl⟩, ⟨?_, fun i hi => ?_, ?_, fun b hb => ?_⟩, ?_⟩
  · exact State.setReg_reg_same ..
  · exact State.setReg_reg_ne _ _ hi
  · exact Memory.read_write_same ..
  · exact Memory.write_byte_outside _ _ _ hb
  · exact (setReg_restKept ..).trans (setMem_restKept (Memory.write_capacity ..))

theorem push_of_not_fits {w : Width} {s : State} (v : BitVec w.bits) (h : ¬ PushFits w s) :
    push w v s = .fault (.outOfBoundsMemoryAccess s.ipStart (s.reg esp - BitVec.ofNat 32 w.bytes) w.bytes .write) := by
  rw [push, State.setReg_reg_same]
  exact store_of_outOfBounds (Nat.not_le.1 h)

/-- What a pop of an item in memory does (20_memory.md R71). -/
theorem pop_of_fits {w : Width} {s : State} (h : PopFits w s) :
    pop w s = .next (s.mem.read (s.reg esp).toNat w, s.setReg esp (s.reg esp + BitVec.ofNat 32 w.bytes)) :=
  pop_eq_next.2 ⟨h, rfl⟩

theorem pop_of_not_fits {w : Width} {s : State} (h : ¬ PopFits w s) :
    pop w s = .fault (.outOfBoundsMemoryAccess s.ipStart (s.reg esp) w.bytes .read) := by
  rw [pop, load_of_outOfBounds (Nat.not_le.1 h), chain_fault]

/-! ## Operands of the stack instructions and of CALL -/

theorem addressed_of_as32 {α : Type} {s : State} {k : Out α} (h : s.pfx.as32 = true) : addressed s k = k := if_pos h

/-- A memory operand under the byte 67 is refused before anything else (41_addressing.md R184). -/
theorem addressed_of_not_as32 {α : Type} {s : State} {k : Out α} (h : s.pfx.as32 = false) :
    addressed s k = .refused .addr16 := if_neg (Bool.eq_false_iff.1 h)

/-- An accessible operand is not refused, nor is it at a state with the same PFX (41_addressing.md R184). -/
theorem addressedRm_of_accessible {α : Type} {w : Width} {d : Rm} {s t : State} {k : Out α} (h : Accessible w d t)
    (hp : t.pfx = s.pfx) : addressedRm d s k = k := by
  cases d with
  | reg r => rfl
  | mem o =>
    obtain ⟨has, -⟩ := h
    rw [hp] at has
    exact addressed_of_as32 has

theorem exec_pushRmv {d : Rm} {s : State} (h : Accessible s.osz d s) :
    exec (.pushRmv d) s = push s.osz (operand s.osz d s) s := chain_of_next (rmRead_of_accessible h)

/-- After the pop, POP writes its operand at the state with ESP raised (46_stack.md R376). -/
theorem exec_popRmv {x : RegIdx} {d : Rm} {s : State} (h : PopFits s.osz s) :
    exec (.popRmv x d) s = addressedRm d s (rmWrite s.osz d (s.mem.read (s.reg esp).toNat s.osz)
      (s.setReg esp (s.reg esp + BitVec.ofNat 32 s.osz.bytes))) :=
  congrArg (addressedRm d s) (chain_of_next (pop_of_fits h))

theorem exec_leave {s : State} (h : s.pfx.opovr = false) :
    exec .leave s = chain (pop .w32 (s.setReg esp (s.reg ebp))) fun p => .next (p.2.setReg ebp p.1) :=
  if_neg (Bool.eq_false_iff.1 h)

theorem transfer_of_not_opovr {s : State} {k : Out State} (h : s.pfx.opovr = false) : transfer s k = k :=
  if_neg (Bool.eq_false_iff.1 h)

theorem exec_callRel32 {v : Word} {s : State} (h : s.pfx.opovr = false) :
    exec (.callRel32 v) s = callTo (relTarget s v) s := transfer_of_not_opovr h

theorem exec_callRm32_mem {o : MemOperand} {s : State} (h : s.pfx.opovr = false) (has : s.pfx.as32 = true) :
    exec (.callRm32 (.mem o)) s = chain (load .w32 (ea o s) s) fun a => callTo a s :=
  (addressed_of_as32 has).trans <|
    (transfer_of_not_opovr h).trans <| congrArg (chain · _) (addressed_of_as32 has)

/-- CALL reads its target before the push (47_control_transfer.md R421). -/
theorem exec_callRm32 {d : Rm} {s : State} (h : s.pfx.opovr = false) (ha : Accessible .w32 d s) :
    exec (.callRm32 d) s = callTo (operand .w32 d s) s :=
  (addressedRm_of_accessible ha rfl).trans <|
    (transfer_of_not_opovr h).trans <| chain_of_next (rmRead_of_accessible ha)

theorem exec_ret {s : State} (h : s.pfx.opovr = false) :
    exec .ret s = chain (pop .w32 s) fun p => .next (p.2.setIp p.1) := transfer_of_not_opovr h

/-! ## PUSH, POP and LEAVE -/

/-- Settles O49: each form is the push of what its operand holds. -/
theorem pushForms : Obligations.PushForms := by
  intro r d b v s h
  refine ⟨push_done _ h, push_done _ h, push_done _ h, fun ha => ?_⟩
  rw [exec_pushRmv ha]
  exact push_done _ h

/-- Settles O50: the operand is written at the state with ESP raised. -/
theorem popForms : Obligations.PopForms := by
  intro x r d s h v s1
  have rest (d : Rm) : RestKept s (rmWritten s.osz d v s1) := (setReg_restKept ..).trans (rmWritten_restKept ..)
  refine ⟨⟨_, ?_, rmWritten_written s.osz (.reg r) v s1, rest (.reg r)⟩,
    fun ha => ⟨_, ?_, rmWritten_written s.osz d v s1, rest d⟩⟩
  · exact chain_of_next (pop_of_fits h)
  · rw [exec_popRmv h]
    exact (addressedRm_of_accessible ha rfl).trans (rmWrite_of_accessible _ ha)

/-- Settles O51: the pop at EBP, and then EBP written. -/
theorem leaveReleasesTheFrame : Obligations.LeaveReleasesTheFrame := by
  intro s hp hfits
  have fits : PopFits .w32 (s.setReg esp (s.reg ebp)) := by rwa [PopFits, State.setReg_reg_same]
  rw [exec_leave hp, pop_of_fits fits, State.setReg_reg_same]
  refine ⟨_, rfl, ?_, State.setReg_reg_same .., fun i hsp hbp => ?_, fun b => rfl, ?_⟩
  · rw [State.setReg_reg_ne _ _ (by decide)]
    exact State.setReg_reg_same ..
  · rw [State.setReg_reg_ne _ _ hbp, State.setReg_reg_ne _ _ hsp, State.setReg_reg_ne _ _ hsp]
  · exact ((setReg_restKept ..).trans (setReg_restKept ..)).trans (setReg_restKept ..)

/-! ## CALL and RET -/

/-- The target of a relative transfer as a signed sum, modulo 2^32 (47_control_transfer.md R390). -/
theorem relTarget_eq_ofInt (s : State) (rel : Word) : relTarget s rel = BitVec.ofInt 32 (s.ip.toNat + rel.toInt) := by
  rw [BitVec.ofInt_add, BitVec.ofInt_toInt, BitVec.ofInt_natCast, BitVec.ofNat_toNat, BitVec.setWidth_eq, relTarget]

/-- A transfer that may use the stack keeps every flag and all but IP, registers and memory. -/
theorem RestKept.setIp {s t : State} (h : RestKept s t) (a : Word) :
    (t.setIp a).flags = s.flags ∧ SameOutside s (t.setIp a) ∧ (t.setIp a).freeCount = s.freeCount := by
  obtain ⟨flags, outside, -, free⟩ := h
  exact ⟨flags, outside, free⟩

/-- What a call does once its target is known (47_control_transfer.md R420, R421). -/
theorem callTo_done {s : State} (a : Word) (h : PushFits .w32 s) :
    ∃ t, callTo a s = .next t ∧ t.ip = a ∧ Pushed .w32 s.ip s t ∧ t.flags = s.flags ∧ SameOutside s t ∧
      t.freeCount = s.freeCount := by
  obtain ⟨u, hpush, hpushed, hrest⟩ := push_done (w := .w32) s.ip h
  exact ⟨u.setIp a, chain_of_next hpush, rfl, hpushed, RestKept.setIp hrest a⟩

theorem callTo_of_not_fits {s : State} (a : Word) (h : ¬ PushFits .w32 s) :
    callTo a s = .fault (.outOfBoundsMemoryAccess s.ipStart (s.reg esp - 4) 4 .write) :=
  chain_of_fault (push_of_not_fits _ h)

/-- Settles O55: both forms of CALL are a call to their target, and RET goes to what it pops. -/
theorem callsAndReturn : Obligations.CallsAndReturn := by
  intro v d s hp
  refine ⟨fun h => ⟨?_, fun ha => ?_⟩, fun h => ?_⟩
  · rw [exec_callRel32 hp, ← relTarget_eq_ofInt]
    exact callTo_done _ h
  · rw [exec_callRm32 hp ha]
    exact callTo_done _ h
  · rw [exec_ret hp, pop_of_fits h]
    refine ⟨_, rfl, rfl, State.setReg_reg_same .., fun i hi => ?_, fun b => rfl, (setReg_restKept ..).setIp _⟩
    exact State.setReg_reg_ne _ _ hi

/-! ## Operands outside memory -/

theorem rmRead_of_outOfBounds {w : Width} {o : MemOperand} {s : State} (has : s.pfx.as32 = true)
    (h : s.mem.capacity < (ea o s).toNat + w.bytes) :
    rmRead w (.mem o) s = .fault (.outOfBoundsMemoryAccess s.ipStart (ea o s) w.bytes .read) :=
  (addressed_of_as32 has).trans (load_of_outOfBounds h)

theorem rmWrite_of_outOfBounds {w : Width} {o : MemOperand} {v : BitVec w.bits} {s : State} (has : s.pfx.as32 = true)
    (h : s.mem.capacity < (ea o s).toNat + w.bytes) :
    rmWrite w (.mem o) v s = .fault (.outOfBoundsMemoryAccess s.ipStart (ea o s) w.bytes .write) :=
  (addressed_of_as32 has).trans (store_of_outOfBounds h)

/-- Settles O52: each instruction faults where its push, its pop or the access of its operand does. -/
theorem stackFaultsOutsideMemory : Obligations.StackFaultsOutsideMemory := by
  intro x r d o b v s oob n
  refine ⟨?pushes, ?pops, ?popDestination, fun hp => ⟨?calls, ?callTarget, ?ret, ?leave⟩⟩
  case pushes =>
    intro h out
    refine ⟨push_of_not_fits _ h, push_of_not_fits _ h, push_of_not_fits _ h, fun ha => ?_⟩
    rw [exec_pushRmv ha]
    exact push_of_not_fits _ h
  case pops =>
    intro h
    exact ⟨chain_of_fault (pop_of_not_fits h), chain_of_fault (pop_of_not_fits h),
      fun has => (addressed_of_as32 has).trans (chain_of_fault (pop_of_not_fits h))⟩
  case popDestination =>
    intro h has a hcap
    rw [exec_popRmv h]
    exact (addressed_of_as32 has).trans (rmWrite_of_outOfBounds has hcap)
  case calls =>
    intro h
    refine ⟨?_, fun ha => ?_⟩
    · rw [exec_callRel32 hp]
      exact callTo_of_not_fits _ h
    · rw [exec_callRm32 hp ha]
      exact callTo_of_not_fits _ h
  case callTarget =>
    intro has hcap
    rw [exec_callRm32_mem hp has]
    exact chain_of_fault (load_of_outOfBounds hcap)
  case ret =>
    intro h
    rw [exec_ret hp]
    exact chain_of_fault (pop_of_not_fits h)
  case leave =>
    intro hcap
    have notFits : ¬ PopFits .w32 (s.setReg esp (s.reg ebp)) := by
      rw [PopFits, State.setReg_reg_same]
      exact Nat.not_le.2 hcap
    rw [exec_leave hp, pop_of_not_fits notFits, State.setReg_reg_same]
    rfl

/-- The 8-bit readers are a read of their operand and what follows it. -/
theorem exec_byteReader {d : Rm} {r : RegIdx} {i : Instr} (h : i ∈ byteReaders d r) (s : State) :
    ∃ k, exec i s = chain (rmRead .w8 d s) k := by
  revert i
  simp only [byteReaders, List.forall_mem_cons, List.not_mem_nil, false_implies, implies_true, and_true]
  and_intros
  all_goals exact ⟨_, rfl⟩

theorem exec_byteWriter {d : Rm} {r : RegIdx} {b : Byte} {i : Instr} (h : i ∈ byteWriters d r b) (s : State) :
    ∃ v, exec i s = rmWrite .w8 d v s := by
  obtain rfl | rfl : i = .movRm8R8 d r ∨ i = .movRm8Imm8 r d b := by simpa [byteWriters] using h
  · exact ⟨_, rfl⟩
  · exact ⟨_, rfl⟩

theorem exec_wideWriter {d : Rm} {r : RegIdx} {v : Word} {i : Instr} (h : i ∈ wideWriters d r v) (s : State) :
    ∃ u, exec i s = rmWrite s.osz d u s := by
  obtain rfl | rfl : i = .movRmvRv d r ∨ i = .movRmvImmv r d v := by simpa [wideWriters] using h
  · exact ⟨_, rfl⟩
  · exact ⟨_, rfl⟩

/-- The readers of the operand size are a read of their operand and what follows it. -/
theorem exec_wideReader {d : Rm} {r : RegIdx} {b : Byte} {v : Word} {i : Instr} (h : i ∈ wideReaders d r b v)
    (s : State) : ∃ k, exec i s = chain (rmRead s.osz d s) k := by
  revert i
  simp only [wideReaders, List.forall_mem_append, wideRegReaders, wideImmReaders, wideUnaryReaders, wideShifts,
    List.forall_mem_cons, List.not_mem_nil, false_implies, implies_true, and_true]
  and_intros
  all_goals exact ⟨_, rfl⟩

theorem exec_otherAddressed {o : MemOperand} {r : RegIdx} {i : Instr} (h : i ∈ otherAddressed o r) (s : State) :
    ∃ k, exec i s = addressed s k := by
  obtain rfl | rfl | rfl : i = .lea r o ∨ i = .popRmv r (.mem o) ∨ i = .callRm32 (.mem o) := by
    simpa [otherAddressed] using h
  · exact ⟨_, rfl⟩
  · exact ⟨_, rfl⟩
  · exact ⟨_, rfl⟩

/-- Under the byte 67 every form with a memory operand is refused (41_addressing.md R184). -/
theorem exec_allAddressed {o : MemOperand} {r : RegIdx} {b : Byte} {v : Word} {i : Instr} {s : State}
    (h : i ∈ allAddressed o r b v) (has : s.pfx.as32 = false) : exec i s = .refused .addr16 := by
  have read {w : Width} : rmRead w (.mem o) s = .refused .addr16 := addressed_of_not_as32 has
  have write {w : Width} (u : BitVec w.bits) : rmWrite w (.mem o) u s = .refused .addr16 := addressed_of_not_as32 has
  simp only [allAddressed, List.mem_append] at h
  obtain (((h | h) | h) | h) | h := h
  · obtain ⟨k, hk⟩ := exec_byteReader h s
    rw [hk, read, chain_refused]
  · obtain ⟨u, hu⟩ := exec_byteWriter h s
    rw [hu, write]
  · obtain ⟨k, hk⟩ := exec_wideReader h s
    rw [hk, read, chain_refused]
  · obtain ⟨u, hu⟩ := exec_wideWriter h s
    rw [hu, write]
  · obtain ⟨k, hk⟩ := exec_otherAddressed h s
    rw [hk, addressed_of_not_as32 has]

/-- Settles O42: a form that reads its operand first stops at that read, one that only writes it at that write. -/
theorem memoryOperandsOutsideMemory : Obligations.MemoryOperandsOutsideMemory := by
  intro o r b v s out
  refine ⟨fun has hcap => ⟨fun i hi => ?_, fun i hi => ?_⟩, fun has hcap => ⟨fun i hi => ?_, fun i hi => ?_⟩,
    fun has i hi => exec_allAddressed hi has⟩
  · obtain ⟨k, hk⟩ := exec_byteReader hi s
    rw [hk, rmRead_of_outOfBounds has hcap, chain_fault]
  · obtain ⟨u, hu⟩ := exec_byteWriter hi s
    rw [hu, rmWrite_of_outOfBounds has hcap]
  · obtain ⟨k, hk⟩ := exec_wideReader hi s
    rw [hk, rmRead_of_outOfBounds has hcap, chain_fault]
  · obtain ⟨u, hu⟩ := exec_wideWriter hi s
    rw [hu, rmWrite_of_outOfBounds has hcap]

/-! ## Calls to the host -/

/-- The five forms that call the host are no transfer and do not set PFX (60_exceptions.md R526). -/
theorem callsHost_kind {i : Instr} (h : callsHost i = true) : isTransfer i = false ∧ i.isPfxByte = false := by
  unfold callsHost at h
  split at h
  case h_6 => exact nomatch h
  all_goals exact ⟨rfl, rfl⟩

theorem dispatchInt_hostCalls (v : Byte) (s : State) :
    (dispatchInt v s).hostCalls = s.hostCalls ++ [.intDispatch v (Config.intDispatch v s.view).handled] := by
  obtain ⟨n, hn⟩ := dispatchInt_eq v s; rw [hn]; rfl

/-- Settles O16: only the effects of a port and of INT record a call. -/
theorem onlyInOutIntCallTheHost : Obligations.OnlyInOutIntCallTheHost := by
  intro i s t h
  cases exec_effect h with
  | plain hc _ h => rw [if_neg (by simp [hc])]; exact h.1.hostCalls
  | transfer hi h => rw [if_neg fun hc => by simp [callsHost_kind hc] at hi]; exact h.hostCalls
  | prefixByte hi p h => rw [if_neg fun hc => by simp [callsHost_kind hc] at hi, h, State.setPfx_hostCalls]
  | stos hi u hu h => rw [if_neg (by rw [hi]; nofun), h]; exact hu.1.hostCalls
  | port hi c h => rw [if_pos hi]; exact ⟨c, h.1.hostCalls⟩
  | interrupt v hi h => rw [if_pos (by rw [hi]; rfl), h]; exact ⟨_, dispatchInt_hostCalls v s⟩

end Sys2Proof.Machine

/-! PROOFS. The decoder reads back every encoding, whatever follows it; the bytes it does not map, and what a step does with
them after a run of PFX bytes (30_encoding.md R100, R135, 49_dispatch.md R470 to R476). -/

namespace Sys2Proof

open Sys2Proof.Machine

/-! ## Encodings with bytes after them -/

/-- A fetch that finds bytes finds every beginning of them. -/
theorem AtBytes.left {f : Fetch} {off : Nat} {bs cs : List Byte} (h : AtBytes f off (bs ++ cs)) : AtBytes f off bs := by
  intro k n hk
  have whole := h k n (by rw [List.length_append]; omega)
  rw [whole, List.drop_append_of_le_length (by omega), List.take_append_of_le_length (by rw [List.length_drop]; omega)]

/-- A PFX byte is its own encoding, and its row is its own entry (30_encoding.md R134, 49_dispatch.md R475). -/
theorem encode_pfxByte {m : DecodeMode} {i : Instr} (h : i.isPfxByte = true) :
    ∃ b, encode m i = [b] ∧ lookup primaryTable b = some (.pfx i) := by
  cases i with
  | segEs | segCs | segSs | segDs | segFs | segGs | opSize | addrSize | lock | repnz | repz => exact ⟨_, rfl, rfl⟩
  | _ => exact nomatch h

theorem decode_encode_pfxByte {f : Fetch} {m : DecodeMode} {i : Instr} (h : i.isPfxByte = true)
    (hb : AtBytes f 0 (encode m i)) : decode f m = .pfxByte i := by
  obtain ⟨b, henc, hl⟩ := encode_pfxByte (m := m) h
  rw [henc] at hb
  rw [decode_primary hb hl nofun, runEntry]

/-- Settles O1: the bytes of the encoding are fetched whatever follows them, and the decoder reads them back. -/
theorem encodingsDecodeBack : Obligations.EncodingsDecodeBack := by
  intro m i rest hwf
  have hb : AtBytes (listFetch (encode m i ++ rest)) 0 (encode m i) := (listFetch_atBytes _).left
  rw [decodeBytes]
  split
  next hp => exact decode_encode_pfxByte hp hb
  next hp => exact decode_encode hwf (Bool.eq_false_iff.2 hp) hb

/-- Settles O3: the decoder evaluated on each word. -/
theorem workedEncodingsDecode : Obligations.WorkedEncodingsDecode := by
  unfold Obligations.WorkedEncodingsDecode
  decide

/-! ## Bytes outside the map -/

/-- A byte selects no entry of a table exactly when no row's pattern is its masked value (30_encoding.md R111). -/
theorem lookup_eq_none {t : List Row} {b : Byte} : lookup t b = none ↔ ∀ r ∈ t, b &&& r.mask ≠ r.pattern := by
  induction t with
  | nil => simp [lookup]
  | cons r t ih =>
    rw [lookup, List.forall_mem_cons, ← ih]
    split
    next h => simp [h]
    next h => simp [h]

/-- The dots of the one-byte map select no entry (30_encoding.md R135). -/
theorem lookup_unmappedFirstByte : ∀ b ∈ unmappedFirstBytes, lookup primaryTable b = none := by
  unfold unmappedFirstBytes
  simp only [List.forall_mem_append]
  and_intros
  all_goals
    repeat refine List.forall_mem_cons.2 ⟨rfl, ?_⟩
    exact List.forall_mem_nil _

/-- The second table maps the bytes 80 to 8F (30_encoding.md R133). -/
theorem secondTable_pattern : ∀ r ∈ secondTable, r.mask = 0xFF#8 ∧ 0x80 ≤ r.pattern.toNat ∧ r.pattern.toNat ≤ 0x8F := by
  unfold secondTable
  repeat refine List.forall_mem_cons.2 ⟨⟨rfl, by decide⟩, ?_⟩
  exact List.forall_mem_nil _

theorem and_allOnes_byte (b : Byte) : b &&& 0xFF#8 = b := BitVec.and_allOnes

theorem lookup_unmappedSecondByte {b : Byte} (h : b.toNat < 0x80 ∨ 0x8F < b.toNat) : lookup secondTable b = none := by
  refine lookup_eq_none.2 fun r hr hsel => ?_
  obtain ⟨hmask, hlow, hhigh⟩ := secondTable_pattern r hr
  rw [hmask, and_allOnes_byte] at hsel
  rw [← hsel] at hlow hhigh
  omega

theorem decode_unmappedFirst {f : Fetch} {m : DecodeMode} {b : Byte} {rest : List Byte} (hb : AtBytes f 0 (b :: rest))
    (hl : lookup primaryTable b = none) : decode f m = .unmapped [b] := by
  rw [decode, withByte_at hb, hl]

/-- Fetching a byte where nothing is known of those around it (30_encoding.md R102). -/
theorem withByte_some {f : Fetch} {off : Nat} {b : Byte} (h : f off 1 = some (b.setWidth 32)) (k : Byte → Decoded) :
    withByte f off k = k b := by
  simp only [withByte, h, setWidth_byte]

/-- What the decoder does with 0F and the byte after it, wherever that stands (49_dispatch.md R471). -/
theorem decode_escape_then {f : Fetch} {m : DecodeMode} {b2 : Byte} (hb : AtBytes f 0 [0x0F#8])
    (h2 : f 1 1 = some (b2.setWidth 32)) : decode f m = runSecond f m b2 := by
  rw [decode_escape hb, withByte_some h2]

theorem runSecond_unmapped {f : Fetch} {m : DecodeMode} {b2 : Byte} (hl : lookup secondTable b2 = none) :
    runSecond f m b2 = .unmapped [0x0F#8, b2] := by
  rw [runSecond, hl]

end Sys2Proof

namespace Sys2Proof.Machine

open Sys2Proof

/-! ## Steps after a run of PFX bytes -/

/-- Settles O9: the loop goes on where the run of PFX bytes ends, and there it runs the instruction. -/
theorem prefixRunAndInstructionAreOneStep : Obligations.PrefixRunAndInstructionAreOneStep := by
  intro n s t i len h hn hd
  obtain ⟨fuel, hstep⟩ := step_prefixRun h hn
  rw [hstep, cycle, hd]

theorem step_unmapped {n : Nat} {s t : State} (h : PrefixRun n s.begin t) (hn : n ≤ s.mem.capacity) {bytes : List Byte}
    (hd : decodeAt t = .unmapped bytes) : step s = .fault (.unimplementedOpcode s.ip bytes) := by
  obtain ⟨fuel, hstep⟩ := step_prefixRun h hn
  have ipStart : t.ipStart = s.ip := h.ipStart
  rw [hstep, cycle, hd, ← ipStart]
  rfl

theorem step_refusedDecode {n : Nat} {s t : State} (h : PrefixRun n s.begin t) (hn : n ≤ s.mem.capacity)
    {why : DecodeRefusal} (hd : decodeAt t = .refused why) : step s = .refused (refusalOf why) := by
  obtain ⟨fuel, hstep⟩ := step_prefixRun h hn
  rw [hstep, cycle, hd]

theorem step_refusedExec {n : Nat} {s t : State} (h : PrefixRun n s.begin t) (hn : n ≤ s.mem.capacity) {i : Instr}
    {len : Nat} {r : Refusal} (hd : decodeAt t = .ok i len) (he : exec i (t.advance len) = .refused r) :
    step s = .refused r := by
  rw [prefixRunAndInstructionAreOneStep n s t i len h hn hd, he, chain_refused]

/-- Settles O4: no row of the primary table has any of these bytes. -/
theorem unmappedFirstByteFaults : Obligations.UnmappedFirstByteFaults := by
  refine ⟨by decide, rfl, fun n s t h hn hin hb => ?_⟩
  exact step_unmapped h hn (decode_unmappedFirst (atBytes_first hin) (lookup_unmappedFirstByte _ hb))

/-- The byte after the one at IP, where it is in memory, is fetched; after the last address of all it is the byte at 0
(10_state.md R30). -/
theorem memFetch_second {s : State} (h : (s.ip + 1).toNat < s.mem.capacity) :
    memFetch s.mem s.ip 1 1 = some ((s.mem.byte (s.ip + 1).toNat).setWidth 32) := memFetch_one h

theorem decodeAt_escape {s : State} (hin : s.ip.toNat < s.mem.capacity) (hin2 : (s.ip + 1).toNat < s.mem.capacity)
    (hb : s.mem.byte s.ip.toNat = 0x0F#8) :
    decodeAt s = runSecond (memFetch s.mem s.ip) s.decodeMode (s.mem.byte (s.ip + 1).toNat) :=
  decode_escape_then (hb ▸ atBytes_first hin) (memFetch_second hin2)

/-- Settles O5: the rows of the second table have the bytes 80 to 8F only. -/
theorem unmappedSecondByteFaults : Obligations.UnmappedSecondByteFaults := by
  intro n s t h hn hin hin2 hb hout
  refine step_unmapped h hn ?_
  rw [decodeAt_escape hin hin2 hb, runSecond_unmapped (lookup_unmappedSecondByte hout)]
  rfl

end Sys2Proof.Machine

/-! PROOFS. Whatever bytes decode to an instruction are its encoding: the decoder inverted fetch by fetch, entry by entry and
row by row (30_encoding.md R135, R138, R140). -/

namespace Sys2Proof

open Sys2Proof.Machine

/-! ## What was fetched -/

/-- From offset `off` on the bytes `bs` go on with `es`, and `next` is the offset after them. -/
def Spans (bs : List Byte) (off next : Nat) (es : List Byte) : Prop := next = off + es.length ∧ es <+: bs.drop off

theorem Spans.append {bs xs ys : List Byte} {a b c : Nat} (h : Spans bs a b xs) (g : Spans bs b c ys) :
    Spans bs a c (xs ++ ys) := by
  obtain ⟨rfl, zs, hz⟩ := h
  obtain ⟨rfl, us, hu⟩ := g
  rw [← List.drop_drop, ← hz, List.drop_left] at hu
  refine ⟨by rw [List.length_append, Nat.add_assoc], us, ?_⟩
  rw [List.append_assoc, hu, hz]

/-- Bytes that stand at the start are the first ones. -/
theorem Spans.eq_take {bs es : List Byte} {len : Nat} (h : Spans bs 0 len es) :
    len = es.length ∧ len ≤ bs.length ∧ es = bs.take len := by
  obtain ⟨hlen, hpre⟩ := h
  rw [Nat.zero_add] at hlen
  rw [List.drop_zero] at hpre
  exact ⟨hlen, hlen ▸ hpre.length_le, hlen ▸ List.prefix_iff_eq_take.1 hpre⟩

/-- The bytes of a value of up to four bytes are the bytes it was made of (20_memory.md R62, R63). -/
theorem leBytes_leValue {es : List Byte} (h : es.length ≤ 4) : leBytes es.length (leValue es) = es := by
  induction es with
  | nil => rfl
  | cons b es ih =>
    rw [List.length_cons] at h
    have low : (leValue (b :: es)).toNat = b.toNat + 2 ^ 8 * (leValue es).toNat := by
      have rest := leValue_lt es
      have fits : 2 ^ (8 * es.length) ≤ 2 ^ 24 := Nat.pow_le_pow_right (by decide) (by omega)
      have byteBound := b.isLt
      rw [leValue_cons_toNat]
      omega
    have head : (leValue (b :: es)).setWidth 8 = b := by
      apply BitVec.eq_of_toNat_eq
      have byteBound := b.isLt
      rw [BitVec.toNat_setWidth, low]
      omega
    have tail : leValue (b :: es) >>> 8 = leValue es := by
      apply BitVec.eq_of_toNat_eq
      have byteBound := b.isLt
      rw [BitVec.toNat_ushiftRight, low, Nat.shiftRight_eq_div_pow]
      omega
    rw [List.length_cons, leBytes, head, tail, ih (by omega)]

theorem listFetch_eq_some {bs : List Byte} {off n : Nat} {v : Word} (h : listFetch bs off n = some v) (hn : n ≤ 4) :
    Spans bs off (off + n) (leBytes n v) ∧ v.toNat < 2 ^ (8 * n) := by
  unfold listFetch at h
  split at h
  next hin =>
    obtain rfl := Option.some.inj h
    have hlen : ((bs.drop off).take n).length = n := by
      rw [List.length_take, List.length_drop]
      omega
    have hbytes := leBytes_leValue (hlen.trans_le hn)
    have hbound := leValue_lt ((bs.drop off).take n)
    rw [hlen] at hbytes hbound
    rw [hbytes]
    exact ⟨⟨by rw [hlen], List.take_prefix ..⟩, hbound⟩
  next => exact nomatch h

/-! ## The fetches inverted -/

section

variable {bs : List Byte} {m : DecodeMode} {off n : Nat} {i : Instr} {len : Nat}

theorem withField_eq_ok {k : Word → Decoded} (h : withField (listFetch bs) off n k = .ok i len) (hn : n ≤ 4) :
    ∃ v, Spans bs off (off + n) (leBytes n v) ∧ v.toNat < 2 ^ (8 * n) ∧ k v = .ok i len := by
  unfold withField at h
  split at h
  next v hf =>
    obtain ⟨hspan, hv⟩ := listFetch_eq_some hf hn
    exact ⟨v, hspan, hv, h⟩
  next => exact nomatch h

theorem withByte_eq_ok {k : Byte → Decoded} (h : withByte (listFetch bs) off k = .ok i len) :
    ∃ b, Spans bs off (off + 1) [b] ∧ k b = .ok i len := by
  obtain ⟨v, hspan, -, hk⟩ := withField_eq_ok h (by decide)
  exact ⟨v.setWidth 8, hspan, hk⟩

theorem withWord_eq_ok {k : Word → Decoded} (h : withField (listFetch bs) off 4 k = .ok i len) :
    ∃ v, Spans bs off (off + 4) (leBytes 4 v) ∧ k v = .ok i len := by
  obtain ⟨v, hspan, -, hk⟩ := withField_eq_ok h (Nat.le_refl 4)
  exact ⟨v, hspan, hk⟩

/-- An immediate of kind `iv` that was fetched fits the operand size (30_encoding.md R108). -/
theorem withIv_eq_ok {k : Word → Decoded} (h : withField (listFetch bs) off m.ivBytes k = .ok i len) :
    ∃ v, Spans bs off (off + m.ivBytes) (encodeIv m v) ∧ immvWf m v = true ∧ k v = .ok i len := by
  have atMostFour : m.ivBytes ≤ 4 := by
    unfold DecodeMode.ivBytes
    split <;> omega
  obtain ⟨v, hspan, hv, hk⟩ := withField_eq_ok h atMostFour
  refine ⟨v, hspan, ?_, hk⟩
  unfold DecodeMode.ivBytes at hv
  split at hv
  next hos => simp [immvWf, hos]
  next => simpa [immvWf] using Or.inr hv

theorem packByte_of_fields {b : Byte} {hi : BitVec 2} {lo : BitVec 3} (hhi : b.extractLsb' 6 2 = hi)
    (hlo : b.extractLsb' 0 3 = lo) : packByte hi (b.extractLsb' 3 3) lo = b := by
  rw [← hhi, ← hlo, packByte_extract]

/-- The operand that `decode_modrm` goes on with is well-formed, and what was fetched is its encoding (41_addressing.md R181,
R189). -/
theorem withModrm_eq_ok {k : Byte → RegIdx → Rm → Nat → Decoded} (h : withModrm (listFetch bs) m off k = .ok i len) :
    ∃ b reg d next, d.wf m = true ∧ Spans bs off next (encodeRm reg d) ∧ k b reg d next = .ok i len := by
  unfold withModrm at h
  obtain ⟨b, hb, h⟩ := withByte_eq_ok h
  dsimp only at h
  have two : b.extractLsb' 6 2 ≠ 3#2 → b.extractLsb' 6 2 ≠ 0#2 → b.extractLsb' 6 2 ≠ 1#2 → b.extractLsb' 6 2 = 2#2 := by
    generalize b.extractLsb' 6 2 = md
    revert md
    decide
  split at h
  next h3 =>
    have modrm : packByte 3 (b.extractLsb' 3 3) (b.extractLsb' 0 3) = b := packByte_of_fields h3 rfl
    refine ⟨b, _, _, _, ?_, ?_, h⟩
    · rfl
    · rwa [encodeRm, modrm]
  next h3 =>
    split at h
    next => exact nomatch h
    next has =>
      rw [Bool.not_eq_false] at has
      split at h
      next h4 =>
        obtain ⟨s, hs, h⟩ := withByte_eq_ok h
        split at h
        next h0 =>
          have modrm : packByte 0 (b.extractLsb' 3 3) 4 = b := packByte_of_fields h0 h4
          refine ⟨b, _, _, _, ?_, ?_, h⟩
          · exact has
          · rw [encodeRm, encodeMem, modrm, packByte_extract]
            exact hb.append hs
        next h0 =>
          split at h
          next h1 =>
            have modrm : packByte 1 (b.extractLsb' 3 3) 4 = b := packByte_of_fields h1 h4
            obtain ⟨d, hd, h⟩ := withByte_eq_ok h
            refine ⟨b, _, _, _, ?_, ?_, h⟩
            · exact has
            · rw [encodeRm, encodeMem, modrm, packByte_extract]
              exact hb.append (hs.append hd)
          next h1 =>
            have modrm : packByte 2 (b.extractLsb' 3 3) 4 = b := packByte_of_fields (two h3 h0 h1) h4
            obtain ⟨d, hd, h⟩ := withWord_eq_ok h
            refine ⟨b, _, _, _, ?_, ?_, h⟩
            · exact has
            · rw [encodeRm, encodeMem, modrm, packByte_extract]
              exact hb.append (hs.append hd)
      next h4 =>
        split at h
        next h0 =>
          split at h
          next h5 =>
            have modrm : packByte 0 (b.extractLsb' 3 3) 5 = b := packByte_of_fields h0 h5
            obtain ⟨d, hd, h⟩ := withWord_eq_ok h
            refine ⟨b, _, _, _, ?_, ?_, h⟩
            · exact has
            · rw [encodeRm, encodeMem, modrm]
              exact hb.append hd
          next h5 =>
            have modrm : packByte 0 (b.extractLsb' 3 3) (b.extractLsb' 0 3) = b := packByte_of_fields h0 rfl
            refine ⟨b, _, _, _, ?_, ?_, h⟩
            · simp [Rm.wf, MemOperand.wf, has, h4, h5]
            · rwa [encodeRm, encodeMem, modrm]
        next h0 =>
          split at h
          next h1 =>
            have modrm : packByte 1 (b.extractLsb' 3 3) (b.extractLsb' 0 3) = b := packByte_of_fields h1 rfl
            obtain ⟨d, hd, h⟩ := withByte_eq_ok h
            refine ⟨b, _, _, _, ?_, ?_, h⟩
            · simp [Rm.wf, MemOperand.wf, has, h4]
            · rw [encodeRm, encodeMem, modrm]
              exact hb.append hd
          next h1 =>
            have modrm : packByte 2 (b.extractLsb' 3 3) (b.extractLsb' 0 3) = b := packByte_of_fields (two h3 h0 h1) rfl
            obtain ⟨d, hd, h⟩ := withWord_eq_ok h
            refine ⟨b, _, _, _, ?_, ?_, h⟩
            · simp [Rm.wf, MemOperand.wf, has, h4]
            · rw [encodeRm, encodeMem, modrm]
              exact hb.append hd

end

/-! ## What an entry makes of its operands is encoded by its opcode and them -/

/-- The instruction has an encoding where `ok` says so, is no PFX byte, and is encoded by the bytes `es`. -/
structure EncodedAs (m : DecodeMode) (i : Instr) (ok : Bool) (es : List Byte) : Prop where
  wf : i.wf m = ok
  notPfx : i.isPfxByte = false
  bytes : encode m i = es

/-- A sub-handler under the opcode `op` and the reg value `reg` makes instructions that are encoded by them. -/
inductive SubEntry.Encodes (m : DecodeMode) (op : List Byte) (reg : RegIdx) : SubEntry → Prop where
  | rm {mk : Rm → Instr} (h : ∀ d, EncodedAs m (mk d) (d.wf m) (op ++ encodeRm reg d)) : Encodes m op reg (.rm mk)
  | rmIb {mk : Rm → Byte → Instr} (h : ∀ d v, EncodedAs m (mk d v) (d.wf m) (op ++ (encodeRm reg d ++ [v]))) :
    Encodes m op reg (.rmIb mk)
  | rmIv {mk : Rm → Word → Instr}
    (h : ∀ d v, EncodedAs m (mk d v) (d.wf m && immvWf m v) (op ++ (encodeRm reg d ++ encodeIv m v))) :
    Encodes m op reg (.rmIv mk)

/-- An entry selected by the last byte `b` of the opcode `op` makes instructions that are encoded by the opcode and what the
entry fetches after it. -/
inductive Entry.Encodes (m : DecodeMode) : List Byte → Byte → Entry → Prop where
  | pfx {op : List Byte} {b : Byte} {i : Instr} : Encodes m op b (.pfx i)
  | escape : Encodes m [0x0F#8] 0x0F#8 .escape
  | nullary {op : List Byte} {b : Byte} {i : Instr} (h : EncodedAs m i true op) : Encodes m op b (.nullary i)
  | plusReg {op : List Byte} {b : Byte} {mk : RegIdx → Instr}
    (h : EncodedAs m (mk (b.extractLsb' 0 3)) true op) : Encodes m op b (.plusReg mk)
  | ib {op : List Byte} {b : Byte} {mk : Byte → Instr}
    (h : ∀ v, EncodedAs m (mk v) true (op ++ [v])) : Encodes m op b (.ib mk)
  | plusRegIb {op : List Byte} {b : Byte} {mk : RegIdx → Byte → Instr}
    (h : ∀ v, EncodedAs m (mk (b.extractLsb' 0 3) v) true (op ++ [v])) : Encodes m op b (.plusRegIb mk)
  | plusRegIv {op : List Byte} {b : Byte} {mk : RegIdx → Word → Instr}
    (h : ∀ v, EncodedAs m (mk (b.extractLsb' 0 3) v) (immvWf m v) (op ++ encodeIv m v)) : Encodes m op b (.plusRegIv mk)
  | iv {op : List Byte} {b : Byte} {mk : Word → Instr}
    (h : ∀ v, EncodedAs m (mk v) (immvWf m v) (op ++ encodeIv m v)) : Encodes m op b (.iv mk)
  | rel8 {op : List Byte} {b : Byte} {mk : Byte → Instr}
    (h : ∀ v, EncodedAs m (mk v) (relWf m) (op ++ [v])) : Encodes m op b (.rel8 mk)
  | rel32 {op : List Byte} {b : Byte} {mk : Word → Instr}
    (h : ∀ v, EncodedAs m (mk v) (relWf m) (op ++ leBytes 4 v)) : Encodes m op b (.rel32 mk)
  | modrm {op : List Byte} {b : Byte} {mk : RegIdx → Rm → Instr}
    (h : ∀ reg d, EncodedAs m (mk reg d) (d.wf m) (op ++ encodeRm reg d)) : Encodes m op b (.modrm mk)
  | modrmIb {op : List Byte} {b : Byte} {mk : RegIdx → Rm → Byte → Instr}
    (h : ∀ reg d v, EncodedAs m (mk reg d v) (d.wf m) (op ++ (encodeRm reg d ++ [v]))) : Encodes m op b (.modrmIb mk)
  | modrmIv {op : List Byte} {b : Byte} {mk : RegIdx → Rm → Word → Instr}
    (h : ∀ reg d v, EncodedAs m (mk reg d v) (d.wf m && immvWf m v) (op ++ (encodeRm reg d ++ encodeIv m v))) :
    Encodes m op b (.modrmIv mk)
  | modrmMem {op : List Byte} {b : Byte} {mk : RegIdx → MemOperand → Instr}
    (h : ∀ reg o, EncodedAs m (mk reg o) (o.wf m) (op ++ encodeMem reg o)) : Encodes m op b (.modrmMem mk)
  | group {op : List Byte} {b : Byte} {subs : List (Option SubEntry)}
    (h : ∀ (reg : RegIdx) (s : SubEntry), subs.getD reg.toNat none = some s → s.Encodes m op reg) :
    Encodes m op b (.group subs)

/-- The first `len` bytes are the encoding of an instruction that has one and is no PFX byte. -/
structure ReadFrom (m : DecodeMode) (bs : List Byte) (i : Instr) (len : Nat) : Prop where
  wf : i.wf m = true
  notPfx : i.isPfxByte = false
  span : Spans bs 0 len (encode m i)

section

variable {bs : List Byte} {m : DecodeMode} {off len : Nat} {op es : List Byte} {b : Byte} {i : Instr} {ok : Bool}

theorem EncodedAs.readFrom (h : EncodedAs m i ok es) (hok : ok = true) (hs : Spans bs 0 len es) : ReadFrom m bs i len :=
  ⟨h.wf.trans hok, h.notPfx, h.bytes.symm ▸ hs⟩

theorem SubEntry.Encodes.readFrom {s : SubEntry} {reg : RegIdx} {d : Rm} {next : Nat} (hs : s.Encodes m op reg)
    (hop : Spans bs 0 off op) (hd : d.wf m = true) (hrm : Spans bs off next (encodeRm reg d))
    (h : runSub (listFetch bs) m d next s = .ok i len) : ReadFrom m bs i len := by
  cases hs with
  | rm henc =>
    cases h
    exact (henc d).readFrom hd (hop.append hrm)
  | rmIb henc =>
    rw [runSub] at h
    obtain ⟨v, hv, h⟩ := withByte_eq_ok h
    cases h
    exact (henc d v).readFrom hd (hop.append (hrm.append hv))
  | rmIv henc =>
    obtain ⟨v, hv, himm, h⟩ := withIv_eq_ok h
    cases h
    exact (henc d v).readFrom (Bool.and_eq_true_iff.2 ⟨hd, himm⟩) (hop.append (hrm.append hv))

theorem relative_eq_ok {r : Decoded} (h : (if m.opovr then .refused .opsize16Transfer else r) = .ok i len) :
    relWf m = true ∧ r = .ok i len := by
  split at h
  next => exact nomatch h
  next hp => exact ⟨by simp [relWf, hp], h⟩

/-- What an entry has decoded was encoded by the opcode and what the entry fetched (49_dispatch.md R490). -/
theorem Entry.Encodes.readFrom {e : Entry} (he : e.Encodes m op b) (hop : Spans bs 0 off op)
    (h : runEntry (listFetch bs) m b off e = .ok i len) : ReadFrom m bs i len := by
  cases he with
  | pfx | escape => exact nomatch h
  | nullary henc | plusReg henc =>
    cases h
    exact henc.readFrom rfl hop
  | ib henc | plusRegIb henc =>
    rw [runEntry] at h
    obtain ⟨v, hv, h⟩ := withByte_eq_ok h
    cases h
    exact (henc v).readFrom rfl (hop.append hv)
  | iv henc | plusRegIv henc =>
    obtain ⟨v, hv, himm, h⟩ := withIv_eq_ok h
    cases h
    exact (henc v).readFrom himm (hop.append hv)
  | rel8 henc =>
    obtain ⟨hrel, h⟩ := relative_eq_ok h
    obtain ⟨v, hv, h⟩ := withByte_eq_ok h
    cases h
    exact (henc v).readFrom hrel (hop.append hv)
  | rel32 henc =>
    obtain ⟨hrel, h⟩ := relative_eq_ok h
    obtain ⟨v, hv, h⟩ := withWord_eq_ok h
    cases h
    exact (henc v).readFrom hrel (hop.append hv)
  | modrm henc =>
    rw [runEntry] at h
    obtain ⟨_, reg, d, next, hd, hrm, h⟩ := withModrm_eq_ok h
    cases h
    exact (henc reg d).readFrom hd (hop.append hrm)
  | modrmIb henc =>
    rw [runEntry] at h
    obtain ⟨_, reg, d, next, hd, hrm, h⟩ := withModrm_eq_ok h
    obtain ⟨v, hv, h⟩ := withByte_eq_ok h
    cases h
    exact (henc reg d v).readFrom hd (hop.append (hrm.append hv))
  | modrmIv henc =>
    rw [runEntry] at h
    obtain ⟨_, reg, d, next, hd, hrm, h⟩ := withModrm_eq_ok h
    obtain ⟨v, hv, himm, h⟩ := withIv_eq_ok h
    cases h
    exact (henc reg d v).readFrom (Bool.and_eq_true_iff.2 ⟨hd, himm⟩) (hop.append (hrm.append hv))
  | modrmMem henc =>
    rw [runEntry] at h
    obtain ⟨_, reg, d, next, hd, hrm, h⟩ := withModrm_eq_ok h
    cases d with
    | reg r => exact nomatch h
    | mem o =>
      cases h
      exact (henc reg o).readFrom hd (hop.append hrm)
  | group henc =>
    rw [runEntry_group] at h
    obtain ⟨_, reg, d, next, hd, hrm, h⟩ := withModrm_eq_ok h
    unfold runGroup at h
    split at h
    next s hs => exact (henc reg s hs).readFrom hop hd hrm h
    next => exact nomatch h

end

/-! ## The rows of the tables -/

/-- The row's entry, selected by any byte that the row matches after the bytes `pre`, makes instructions that are encoded by
these. -/
def Row.Encodes (m : DecodeMode) (pre : List Byte) (r : Row) : Prop :=
  ∀ b, b &&& r.mask = r.pattern → r.entry.Encodes m (pre ++ [b]) b

theorem Row.encodes_exact {m : DecodeMode} {pre : List Byte} {p : Byte} {e : Entry} (h : e.Encodes m (pre ++ [p]) p) :
    Row.Encodes m pre { pattern := p, mask := 0xFF#8, entry := e } := by
  intro b hb
  dsimp only at hb
  rw [and_allOnes_byte] at hb
  exact hb ▸ h

theorem plusR_extract (b : Byte) : plusR (b &&& 0xF8#8) (b.extractLsb' 0 3) = b := by
  revert b; decide

theorem Row.encodes_plusR {m : DecodeMode} {p : Byte} {e : Entry}
    (h : ∀ b, plusR p (b.extractLsb' 0 3) = b → e.Encodes m [b] b) :
    Row.Encodes m [] { pattern := p, mask := 0xF8#8, entry := e } := by
  intro b hb
  refine h b ?_
  dsimp only at hb
  rw [← hb, plusR_extract]

theorem regIdx_cases (r : RegIdx) : r = 0 ∨ r = 1 ∨ r = 2 ∨ r = 3 ∨ r = 4 ∨ r = 5 ∨ r = 6 ∨ r = 7 := by
  revert r; decide

/-- A group whose eight sub-handlers, by reg value, make instructions encoded by the opcode and that reg value. -/
theorem Row.encodes_group {m : DecodeMode} {g : Byte} {s0 s1 s2 s3 s4 s5 s6 s7 : Option SubEntry}
    (h0 : ∀ s ∈ s0, s.Encodes m [g] 0) (h1 : ∀ s ∈ s1, s.Encodes m [g] 1) (h2 : ∀ s ∈ s2, s.Encodes m [g] 2)
    (h3 : ∀ s ∈ s3, s.Encodes m [g] 3) (h4 : ∀ s ∈ s4, s.Encodes m [g] 4) (h5 : ∀ s ∈ s5, s.Encodes m [g] 5)
    (h6 : ∀ s ∈ s6, s.Encodes m [g] 6) (h7 : ∀ s ∈ s7, s.Encodes m [g] 7) :
    Row.Encodes m [] { pattern := g, mask := 0xFF#8, entry := .group [s0, s1, s2, s3, s4, s5, s6, s7] } := by
  refine Row.encodes_exact (.group fun reg s hs => ?_)
  obtain rfl | rfl | rfl | rfl | rfl | rfl | rfl | rfl := regIdx_cases reg
  · exact h0 s hs
  · exact h1 s hs
  · exact h2 s hs
  · exact h3 s hs
  · exact h4 s hs
  · exact h5 s hs
  · exact h6 s hs
  · exact h7 s hs

/-- The rows of the group opcodes (49_dispatch.md R472), one sub-handler after the other. -/
theorem groupRows_encode (m : DecodeMode) :
    Row.Encodes m [] { pattern := 0x81#8, mask := 0xFF#8, entry := .group group81 } ∧
      Row.Encodes m [] { pattern := 0x83#8, mask := 0xFF#8, entry := .group group83 } ∧
      Row.Encodes m [] { pattern := 0xC1#8, mask := 0xFF#8, entry := .group groupC1 } ∧
      Row.Encodes m [] { pattern := 0xD1#8, mask := 0xFF#8, entry := .group groupD1 } ∧
      Row.Encodes m [] { pattern := 0xD3#8, mask := 0xFF#8, entry := .group groupD3 } ∧
      Row.Encodes m [] { pattern := 0xF7#8, mask := 0xFF#8, entry := .group groupF7 } ∧
      Row.Encodes m [] { pattern := 0xFF#8, mask := 0xFF#8, entry := .group groupFF } := by
  and_intros
  all_goals apply Row.encodes_group
  all_goals
    intro s hs
    cases hs
  all_goals
    constructor
    intros
    exact ⟨rfl, rfl, rfl⟩

/-- The rows of mask F8, whose instructions hold the register of the opcode byte (30_encoding.md R103). -/
theorem plusRegRows_encode (m : DecodeMode) :
    Row.Encodes m [] { pattern := 0x40#8, mask := 0xF8#8, entry := .plusReg .incRv } ∧
      Row.Encodes m [] { pattern := 0x48#8, mask := 0xF8#8, entry := .plusReg .decRv } ∧
      Row.Encodes m [] { pattern := 0x50#8, mask := 0xF8#8, entry := .plusReg .pushRv } ∧
      Row.Encodes m [] { pattern := 0x58#8, mask := 0xF8#8, entry := .plusReg .popRv } ∧
      Row.Encodes m [] { pattern := 0xB0#8, mask := 0xF8#8, entry := .plusRegIb .movR8Imm8 } ∧
      Row.Encodes m [] { pattern := 0xB8#8, mask := 0xF8#8, entry := .plusRegIv .movRvImmv } := by
  and_intros
  all_goals
    refine Row.encodes_plusR fun b hb => ?_
    constructor
    intros
    exact ⟨rfl, rfl, congrArg (· :: _) hb⟩

/-- Every row of the primary table (49_dispatch.md R470): those of the groups and of mask F8 as above, the others as the
equations of `encode` and `Instr.wf` say. -/
theorem primaryTable_encode (m : DecodeMode) : ∀ r ∈ primaryTable, r.Encodes m [] := by
  unfold primaryTable primaryRows00 primaryRows40 primaryRows80 primaryRowsC0
  simp only [List.forall_mem_append, List.forall_mem_cons, List.not_mem_nil, false_implies, implies_true, and_true,
    groupRows_encode m, plusRegRows_encode m, true_and]
  and_intros
  all_goals
    apply Row.encodes_exact
    constructor
  all_goals
    intros
    exact ⟨rfl, rfl, rfl⟩

theorem secondTable_encode (m : DecodeMode) : ∀ r ∈ secondTable, r.Encodes m [0x0F#8] := by
  unfold secondTable
  simp only [List.forall_mem_cons, List.not_mem_nil, false_implies, implies_true, and_true]
  and_intros
  all_goals
    refine Row.encodes_exact (.rel32 fun v => ?_)
    exact ⟨rfl, rfl, rfl⟩

theorem lookup_encodes {m : DecodeMode} {pre : List Byte} {t : List Row} (ht : ∀ r ∈ t, r.Encodes m pre) {b : Byte}
    {e : Entry} (hl : lookup t b = some e) : e.Encodes m (pre ++ [b]) b := by
  induction t with
  | nil => exact nomatch hl
  | cons r t ih =>
    obtain ⟨hr, ht⟩ := List.forall_mem_cons.1 ht
    rw [lookup] at hl
    split at hl
    next hsel => exact Option.some.inj hl ▸ hr b hsel
    next => exact ih ht hl

/-! ## The whole decoder -/

theorem Entry.Encodes.escape_byte {m : DecodeMode} {op : List Byte} {b : Byte} (h : Entry.Encodes m op b .escape) :
    b = 0x0F#8 := by
  cases h
  rfl

/-- What has been decoded was encoded by the bytes fetched (30_encoding.md R135, R138). -/
theorem decode_readFrom {m : DecodeMode} {bs : List Byte} {i : Instr} {len : Nat}
    (h : decode (listFetch bs) m = .ok i len) : ReadFrom m bs i len := by
  unfold decode at h
  obtain ⟨b, hb, h⟩ := withByte_eq_ok h
  split at h
  next => exact nomatch h
  next hl =>
    obtain ⟨b2, hb2, h⟩ := withByte_eq_ok h
    obtain rfl := (lookup_encodes (primaryTable_encode m) hl).escape_byte
    split at h
    next => exact nomatch h
    next e hl2 => exact (lookup_encodes (secondTable_encode m) hl2).readFrom (hb.append hb2) h
  next hl => exact (lookup_encodes (primaryTable_encode m) hl).readFrom hb h

/-- An instruction takes 1 to 11 bytes without its PFX bytes: at most an opcode, an operand and an immediate
(30_encoding.md R140). -/
theorem encode_bounded (m : DecodeMode) (i : Instr) : Laws.Bounded (encode m i) := by
  cases i with
  | incRv | decRv | pushRv | popRv | leave | ret | stos | inAlDx | outDxAl | segEs | segCs | segSs | segDs | segFs | segGs
  | opSize | addrSize | lock | repnz | repz => exact Laws.bounded_one ..
  | addAlImm8 | orAlImm8 | andAlImm8 | subAlImm8 | xorAlImm8 | cmpAlImm8 | testAlImm8 | movR8Imm8 | pushImm8s | jmpRel8
  | joRel8 | jnoRel8 | jbRel8 | jaeRel8 | jeRel8 | jneRel8 | jbeRel8 | jaRel8 | jsRel8 | jnsRel8 | jpRel8 | jnpRel8
  | jlRel8 | jgeRel8 | jleRel8 | jgRel8 | intImm8 | inAlImm8 | outImm8Al => exact Laws.bounded_two ..
  | addEaxImmv | orEaxImmv | andEaxImmv | subEaxImmv | xorEaxImmv | cmpEaxImmv | testEaxImmv | movRvImmv | pushImmv =>
    exact Laws.bounded_iv ..
  | jmpRel32 | callRel32 => exact Laws.bounded_rel ..
  | joRel32 | jnoRel32 | jbRel32 | jaeRel32 | jeRel32 | jneRel32 | jbeRel32 | jaRel32 | jsRel32 | jnsRel32 | jpRel32
  | jnpRel32 | jlRel32 | jgeRel32 | jleRel32 | jgRel32 => exact Laws.bounded_rel2 ..
  | lea => exact Laws.bounded_mem ..
  | addRm8R8 | addRmvRv | addR8Rm8 | addRvRmv | orRm8R8 | orRmvRv | orR8Rm8 | orRvRmv | andRm8R8 | andRmvRv | andR8Rm8
  | andRvRmv | subRm8R8 | subRmvRv | subR8Rm8 | subRvRmv | xorRm8R8 | xorRmvRv | xorR8Rm8 | xorRvRmv | cmpRm8R8
  | cmpRmvRv | cmpR8Rm8 | cmpRvRmv | testRm8R8 | testRmvRv | notRmv | negRmv | mulRmv | imulRmv | divRmv | idivRmv
  | incRmv | decRmv | rolRmvOne | rolRmvCl | rorRmvOne | rorRmvCl | rclRmvOne | rclRmvCl | rcrRmvOne | rcrRmvCl
  | shlRmvOne | shlRmvCl | shrRmvOne | shrRmvCl | sarRmvOne | sarRmvCl | movRm8R8 | movRmvRv | movR8Rm8 | movRvRmv
  | pushRmv | popRmv | callRm32 => exact Laws.bounded_rm ..
  | addRmvImm8s | orRmvImm8s | andRmvImm8s | subRmvImm8s | xorRmvImm8s | cmpRmvImm8s | rolRmvImm8 | rorRmvImm8
  | rclRmvImm8 | rcrRmvImm8 | shlRmvImm8 | shrRmvImm8 | sarRmvImm8 | movRm8Imm8 => exact Laws.bounded_rmIb ..
  | addRmvImmv | orRmvImmv | andRmvImmv | subRmvImmv | xorRmvImmv | cmpRmvImmv | testRmvImmv | movRmvImmv =>
    exact Laws.bounded_rmIv ..

/-- Settles O2: the bytes that were fetched are the encoding, and an encoding is 1 to 11 bytes long. -/
theorem decodedBytesAreTheEncoding : Obligations.DecodedBytesAreTheEncoding := by
  intro m bs i len h
  obtain ⟨hwf, hp, hspan⟩ := decode_readFrom h
  obtain ⟨hlen, hle, htake⟩ := hspan.eq_take
  obtain ⟨hmin, hmax⟩ := encode_bounded m i
  exact ⟨hwf, hp, hle, hlen ▸ hmin, hlen ▸ hmax, htake⟩

end Sys2Proof

/-! PROOFS. What each meaning refuses, said once for all instructions (30_encoding.md R139). -/

namespace Sys2Proof.Machine

open Sys2Proof

/-! ## The forms with a memory operand -/

/-- If the operand is in memory, the instruction is one of the forms with a memory operand. -/
def MemForm (d : Rm) (i : Instr) : Prop := ∀ o, d = .mem o → ∃ x b v, i ∈ allAddressed o x b v

section

variable {d : Rm} {i : Instr}

theorem MemForm.of_byteReader {x : RegIdx} (h : i ∈ byteReaders d x) : MemForm d i := by
  rintro o rfl
  exact ⟨x, 0, 0, by simp only [allAddressed, List.mem_append, h, true_or]⟩

theorem MemForm.of_byteWriter {x : RegIdx} {b : Byte} (h : i ∈ byteWriters d x b) : MemForm d i := by
  rintro o rfl
  exact ⟨x, b, 0, by simp only [allAddressed, List.mem_append, h, true_or, or_true]⟩

theorem MemForm.of_wideReader {x : RegIdx} {b : Byte} {v : Word} (h : i ∈ wideReaders d x b v) : MemForm d i := by
  rintro o rfl
  exact ⟨x, b, v, by simp only [allAddressed, List.mem_append, h, true_or, or_true]⟩

theorem MemForm.of_wideWriter {x : RegIdx} {v : Word} (h : i ∈ wideWriters d x v) : MemForm d i := by
  rintro o rfl
  exact ⟨x, 0, v, by simp only [allAddressed, List.mem_append, h, true_or, or_true]⟩

theorem MemForm.of_wideReg {x : RegIdx} (h : i ∈ wideRegReaders d x) : MemForm d i :=
  .of_wideReader (x := x) (b := 0) (v := 0) (by simp only [wideReaders, List.mem_append, h, true_or])

theorem MemForm.of_wideImm {b : Byte} {v : Word} (h : i ∈ wideImmReaders d b v) : MemForm d i :=
  .of_wideReader (x := 0) (b := b) (v := v) (by simp only [wideReaders, List.mem_append, h, true_or, or_true])

theorem MemForm.of_wideUnary (h : i ∈ wideUnaryReaders d) : MemForm d i :=
  .of_wideReader (x := 0) (b := 0) (v := 0) (by simp only [wideReaders, List.mem_append, h, true_or, or_true])

theorem MemForm.of_wideShift {b : Byte} (h : i ∈ wideShifts d b) : MemForm d i :=
  .of_wideReader (x := 0) (b := b) (v := 0) (by simp only [wideReaders, List.mem_append, h, or_true])

theorem MemForm.of_other {x : RegIdx} (h : ∀ o, d = .mem o → i ∈ otherAddressed o x) : MemForm d i := fun o ho =>
  ⟨x, 0, 0, by simp only [allAddressed, List.mem_append, h o ho, or_true]⟩

end

/-! ## What an instruction refuses -/

/-- The refusals of an instruction, each with the size byte that brings it about (30_encoding.md R139). -/
def InstrRefusal (i : Instr) (s : State) (r : Refusal) : Prop :=
  (s.pfx.as32 = false ∧
    ((r = .addr16 ∧ ∃ o x b v, i ∈ allAddressed o x b v) ∨ (r = .addr16Stos ∧ i = .stos))) ∨
    (s.pfx.opovr = true ∧ ((r = .opsize16Transfer ∧ isTransfer i = true) ∨ (r = .opsize16Leave ∧ i = .leave)))

/-- Whatever the outcome refuses is a refusal of the instruction. -/
def Refuses (i : Instr) (s : State) (o : Out State) : Prop := ∀ r, o = .refused r → InstrRefusal i s r

section

variable {i : Instr} {d : Rm} {s : State} {o : Out State} {N : State → Prop} {F : Fault → Prop}

theorem RmRefusal.instrRefusal {r : Refusal} (h : RmRefusal d s r) (hi : MemForm d i) : InstrRefusal i s r := by
  obtain ⟨has, rfl, m, rfl⟩ := h
  exact .inl ⟨has, .inl ⟨rfl, m, hi m rfl⟩⟩

theorem TransferRefusal.instrRefusal {r : Refusal} (h : TransferRefusal s r) (hi : isTransfer i = true) :
    InstrRefusal i s r := .inr ⟨h.1, .inl ⟨h.2, hi⟩⟩

theorem Sound.refusesOperand (h : Sound N F (RmRefusal d s) o) (hi : MemForm d i) : Refuses i s o := fun r hr =>
  (h.refused r hr).instrRefusal hi

theorem Sound.refusesTransfer (h : Sound N F (TransferRefusal s) o) (hi : isTransfer i = true) : Refuses i s o :=
  fun r hr => (h.refused r hr).instrRefusal hi

theorem Sound.refusesNothing (h : Sound N F NoRefusal o) : Refuses i s o := fun r hr => (h.refused r hr).elim

theorem refuses_next {t : State} : Refuses i s (.next t) := nofun

end

theorem execStos_refuses (s : State) : Refuses .stos s (execStos s) := by
  unfold execStos
  split
  next => exact ((stosItems_ordinary s).chain (N := fun _ => True) fun _ _ => .of_next trivial).refusesNothing
  next has =>
    intro r hr
    cases hr
    exact .inl ⟨Bool.eq_false_iff.2 has, .inr ⟨rfl, rfl⟩⟩

/-- What every meaning refuses: instruction by instruction, through the shared form the meaning is built on. -/
theorem exec_refuses (i : Instr) (s : State) : Refuses i s (exec i s) := by
  unfold exec
  cases i with
  | addRm8R8 d r | orRm8R8 d r | andRm8R8 d r | subRm8R8 d r | xorRm8R8 d r | cmpRm8R8 d r | testRm8R8 d r =>
    exact (aluRmReg_ordinary ..).refusesOperand (.of_byteReader (x := r) (by simp [byteReaders]))
  | addRmvRv d r | orRmvRv d r | andRmvRv d r | subRmvRv d r | xorRmvRv d r | cmpRmvRv d r | testRmvRv d r =>
    exact (aluRmReg_ordinary ..).refusesOperand (.of_wideReg (x := r) (by simp [wideRegReaders]))
  | addR8Rm8 r d | orR8Rm8 r d | andR8Rm8 r d | subR8Rm8 r d | xorR8Rm8 r d | cmpR8Rm8 r d =>
    exact (aluRegRm_ordinary ..).refusesOperand (.of_byteReader (x := r) (by simp [byteReaders]))
  | addRvRmv r d | orRvRmv r d | andRvRmv r d | subRvRmv r d | xorRvRmv r d | cmpRvRmv r d =>
    exact (aluRegRm_ordinary ..).refusesOperand (.of_wideReg (x := r) (by simp [wideRegReaders]))
  | addAlImm8 imm | addEaxImmv imm | orAlImm8 imm | orEaxImmv imm | andAlImm8 imm | andEaxImmv imm | subAlImm8 imm
  | subEaxImmv imm | xorAlImm8 imm | xorEaxImmv imm | cmpAlImm8 imm | cmpEaxImmv imm | testAlImm8 imm | testEaxImmv imm =>
    exact (aluAccImm_ordinary ..).refusesNothing
  | addRmvImmv d v | orRmvImmv d v | andRmvImmv d v | subRmvImmv d v | xorRmvImmv d v | cmpRmvImmv d v
  | testRmvImmv d v =>
    exact (aluRmImm_ordinary ..).refusesOperand (.of_wideImm (b := 0) (v := v) (by simp [wideImmReaders]))
  | addRmvImm8s d b | orRmvImm8s d b | andRmvImm8s d b | subRmvImm8s d b | xorRmvImm8s d b | cmpRmvImm8s d b =>
    exact (aluRmImm_ordinary ..).refusesOperand (.of_wideImm (b := b) (v := 0) (by simp [wideImmReaders]))
  | notRmv d =>
    exact (unaryRm_ordinary _ _ _ (fun _ _ => .refl) s).refusesOperand (.of_wideUnary (by simp [wideUnaryReaders]))
  | negRmv d =>
    exact (unaryRm_ordinary _ _ _ flagsNeg_stored s).refusesOperand (.of_wideUnary (by simp [wideUnaryReaders]))
  | incRmv d =>
    exact (unaryRm_ordinary _ _ _ flagsInc_stored s).refusesOperand (.of_wideUnary (by simp [wideUnaryReaders]))
  | decRmv d =>
    exact (unaryRm_ordinary _ _ _ flagsDec_stored s).refusesOperand (.of_wideUnary (by simp [wideUnaryReaders]))
  | incRv r => exact (unaryRm_ordinary _ (.reg r) _ flagsInc_stored s).refusesOperand nofun
  | decRv r => exact (unaryRm_ordinary _ (.reg r) _ flagsDec_stored s).refusesOperand nofun
  | mulRmv d =>
    exact (chain_rmRead_ordinary fun _ => .of_next (mulWith_plain ..)).refusesOperand
      (.of_wideUnary (by simp [wideUnaryReaders]))
  | imulRmv d =>
    exact (chain_rmRead_ordinary fun _ => .of_next (imulWith_plain ..)).refusesOperand
      (.of_wideUnary (by simp [wideUnaryReaders]))
  | divRmv d =>
    exact (chain_rmRead_division fun _ => divWith_sound ..).refusesOperand (.of_wideUnary (by simp [wideUnaryReaders]))
  | idivRmv d =>
    exact (chain_rmRead_division fun _ => idivWith_sound ..).refusesOperand (.of_wideUnary (by simp [wideUnaryReaders]))
  | rolRmvImm8 d b | rorRmvImm8 d b | rclRmvImm8 d b | rcrRmvImm8 d b | shlRmvImm8 d b | shrRmvImm8 d b
  | sarRmvImm8 d b =>
    exact (shiftRm_ordinary ..).refusesOperand (.of_wideShift (b := b) (by simp [wideShifts]))
  | rolRmvOne d | rolRmvCl d | rorRmvOne d | rorRmvCl d | rclRmvOne d | rclRmvCl d | rcrRmvOne d | rcrRmvCl d
  | shlRmvOne d | shlRmvCl d | shrRmvOne d | shrRmvCl d | sarRmvOne d | sarRmvCl d =>
    exact (shiftRm_ordinary ..).refusesOperand (.of_wideShift (b := 0) (by simp [wideShifts]))
  | movRm8R8 d r => exact (rmWrite_sound ..).refusesOperand (.of_byteWriter (x := r) (b := 0) (by simp [byteWriters]))
  | movRm8Imm8 x d b => exact (rmWrite_sound ..).refusesOperand (.of_byteWriter (x := x) (b := b) (by simp [byteWriters]))
  | movRmvRv d r => exact (rmWrite_sound ..).refusesOperand (.of_wideWriter (x := r) (v := 0) (by simp [wideWriters]))
  | movRmvImmv x d v => exact (rmWrite_sound ..).refusesOperand (.of_wideWriter (x := x) (v := v) (by simp [wideWriters]))
  | movR8Rm8 r d =>
    exact (chain_rmRead_ordinary fun _ => .of_next (writeReg_plain ..)).refusesOperand
      (.of_byteReader (x := r) (by simp [byteReaders]))
  | movRvRmv r d =>
    exact (chain_rmRead_ordinary fun _ => .of_next (writeReg_plain ..)).refusesOperand
      (.of_wideReg (x := r) (by simp [wideRegReaders]))
  | movR8Imm8 r _ | movRvImmv r _ => exact refuses_next
  | lea r m =>
    refine (addressed_sound (F := OobTrue s) (o := m) (.of_next (writeReg_plain ..))).refusesOperand
      (.of_other (x := r) fun o ho => ?_)
    cases ho
    simp [otherAddressed]
  | pushRv _ | pushImmv _ | pushImm8s _ => exact (push_ordinary ..).refusesNothing
  | pushRmv d =>
    exact (chain_rmRead_ordinary fun _ => push_ordinary ..).refusesOperand (.of_wideUnary (by simp [wideUnaryReaders]))
  | popRv r => exact (execPopRv_ordinary ..).refusesNothing
  | popRmv x d =>
    refine (execPopRmv_ordinary ..).refusesOperand (.of_other (x := x) fun o ho => ?_)
    simp [otherAddressed, ho]
  | leave =>
    intro r hr
    obtain ⟨hp, rfl⟩ := (execLeave_ordinary s).refused r hr
    exact .inr ⟨hp, .inr ⟨rfl, rfl⟩⟩
  | jmpRel8 _ | jmpRel32 _ => exact (jump_sound ..).refusesTransfer rfl
  | joRel8 _ | jnoRel8 _ | jbRel8 _ | jaeRel8 _ | jeRel8 _ | jneRel8 _ | jbeRel8 _ | jaRel8 _ | jsRel8 _ | jnsRel8 _
  | jpRel8 _ | jnpRel8 _ | jlRel8 _ | jgeRel8 _ | jleRel8 _ | jgRel8 _ | joRel32 _ | jnoRel32 _ | jbRel32 _ | jaeRel32 _
  | jeRel32 _ | jneRel32 _ | jbeRel32 _ | jaRel32 _ | jsRel32 _ | jnsRel32 _ | jpRel32 _ | jnpRel32 _ | jlRel32 _
  | jgeRel32 _ | jleRel32 _ | jgRel32 _ => exact (jumpIf_sound ..).refusesTransfer rfl
  | callRel32 _ => exact (execCallRel32_sound ..).refusesTransfer rfl
  | callRm32 d =>
    intro r hr
    obtain h | h := (execCallRm32_sound d s).refused r hr
    · exact h.instrRefusal (.of_other (x := 0) fun o ho => by simp [otherAddressed, ho])
    · exact h.instrRefusal rfl
  | ret => exact (execRet_sound s).refusesTransfer rfl
  | stos => exact execStos_refuses s
  | intImm8 _ | inAlImm8 _ | inAlDx | outImm8Al _ | outDxAl | segEs | segCs | segSs | segDs | segFs | segGs | opSize
  | addrSize | lock | repnz | repz => exact refuses_next

/-- Settles O20: the shared forms refuse an operand in memory, a transfer, STOS and LEAVE, and nothing else. -/
theorem refusalsNeedASizePrefix : Obligations.RefusalsNeedASizePrefix := exec_refuses

end Sys2Proof.Machine

/-! PROOFS. The encodings that have no outcome: what the decoder and the meanings refuse under the bytes 66 and 67, and LEA
with mod = 3 (30_encoding.md R139, 49_dispatch.md R490). -/

namespace Sys2Proof

open Sys2Proof.Machine

/-! ## What the decoder refuses -/

/-- Whether an entry of the tables fetches a relative offset next (30_encoding.md R123, R129, R133). -/
def Entry.isRelative : Entry → Bool
  | .rel8 _ | .rel32 _ => true
  | _ => false

/-- A relative transfer is refused under the byte 66 before its offset is fetched (49_dispatch.md R490). -/
theorem runEntry_relative {e : Entry} (h : e.isRelative = true) {f : Fetch} {m : DecodeMode} {b : Byte} {off : Nat}
    (hp : m.opovr = true) : runEntry f m b off e = .refused .opsize16Transfer := by
  cases e with
  | rel8 | rel32 => exact if_pos hp
  | _ => exact nomatch h

/-- The rows that these opcodes select, one opcode after the other. -/
theorem lookup_relOpcode : ∀ b ∈ relOpcodes, ∃ e, lookup primaryTable b = some e ∧ e.isRelative = true := by
  unfold relOpcodes
  simp only [List.forall_mem_append]
  and_intros
  all_goals
    repeat refine List.forall_mem_cons.2 ⟨⟨_, rfl, rfl⟩, ?_⟩
    exact List.forall_mem_nil _

/-- After 0F the bytes 80 to 8F select a relative transfer (30_encoding.md R133). -/
theorem lookup_secondByte {b : Byte} (h : 0x80 ≤ b.toNat ∧ b.toNat ≤ 0x8F) :
    ∃ e, lookup secondTable b = some e ∧ e.isRelative = true := by
  have selected : (lookup secondTable b).any Entry.isRelative = true := by
    revert b; decide
  exact (Option.any_eq_true ..).1 selected

theorem decode_relOpcode {f : Fetch} {m : DecodeMode} {b : Byte} {rest : List Byte} (hb : AtBytes f 0 (b :: rest))
    (h : b ∈ relOpcodes) (hp : m.opovr = true) : decode f m = .refused .opsize16Transfer := by
  obtain ⟨e, hl, he⟩ := lookup_relOpcode b h
  rw [decode_primary hb hl (by rintro rfl; exact nomatch he), runEntry_relative he hp]

theorem runSecond_relative {f : Fetch} {m : DecodeMode} {b2 : Byte} (h : 0x80 ≤ b2.toNat ∧ b2.toNat ≤ 0x8F)
    (hp : m.opovr = true) : runSecond f m b2 = .refused .opsize16Transfer := by
  obtain ⟨e, hl, he⟩ := lookup_secondByte h
  rw [runSecond, hl]
  exact runEntry_relative he hp

/-- The mod field is 3 in the ModRM bytes C0 to FF (30_encoding.md R105). -/
theorem modrm_mod_eq_three {b : Byte} : b.extractLsb' 6 2 = 3#2 ↔ 0xC0 ≤ b.toNat := by
  revert b; decide

/-- A memory operand is refused under the byte 67 before SIB and displacement are fetched (41_addressing.md R184). -/
theorem withModrm_addr16 {f : Fetch} {m : DecodeMode} {off : Nat} {b : Byte} (hb : f off 1 = some (b.setWidth 32))
    (hmod : b.toNat < 0xC0) (has : m.as32 = false) (k : Byte → RegIdx → Rm → Nat → Decoded) :
    withModrm f m off k = .refused .addr16 := by
  have memory : ¬ b.extractLsb' 6 2 = 3#2 := by
    rw [modrm_mod_eq_three]
    omega
  rw [withModrm, withByte_some hb]
  dsimp only
  rw [if_neg memory, if_pos has]

theorem withModrm_reg {f : Fetch} {m : DecodeMode} {off : Nat} {b : Byte} (hb : f off 1 = some (b.setWidth 32))
    (hmod : 0xC0 ≤ b.toNat) (k : Byte → RegIdx → Rm → Nat → Decoded) :
    withModrm f m off k = k b (b.extractLsb' 3 3) (.reg (b.extractLsb' 0 3)) (off + 1) := by
  rw [withModrm, withByte_some hb]
  exact if_pos (modrm_mod_eq_three.2 hmod)

theorem decode_modrmOpcode_addr16 {f : Fetch} {m : DecodeMode} {b b2 : Byte} {rest : List Byte}
    (hb : AtBytes f 0 (b :: rest)) (h : b ∈ modrmOpcodes) (h2 : f 1 1 = some (b2.setWidth 32)) (hmod : b2.toNat < 0xC0)
    (has : m.as32 = false) : decode f m = .refused .addr16 := by
  obtain ⟨k, hk⟩ := decode_modrmOpcode (m := m) hb h
  rw [hk, withModrm_addr16 h2 hmod has]

/-- LEA has no register form (45_data_movement.md R359). -/
theorem decode_lea_reg {f : Fetch} {m : DecodeMode} {b2 : Byte} {rest : List Byte} (hb : AtBytes f 0 (0x8D#8 :: rest))
    (h2 : f 1 1 = some (b2.setWidth 32)) (hmod : 0xC0 ≤ b2.toNat) : decode f m = .refused .leaReg := by
  have row : lookup primaryTable 0x8D#8 = some (.modrmMem .lea) := rfl
  rw [decode_primary hb row nofun, runEntry, withModrm_reg h2 hmod]

/-- An opcode without operands is an instruction of one byte. -/
theorem decode_nullary {f : Fetch} {m : DecodeMode} {b : Byte} {rest : List Byte} {i : Instr}
    (hb : AtBytes f 0 (b :: rest)) (hl : lookup primaryTable b = some (.nullary i)) : decode f m = .ok i 1 := by
  rw [decode_primary hb hl nofun, runEntry]

end Sys2Proof

namespace Sys2Proof.Machine

open Sys2Proof

/-! ## What the meanings refuse -/

section

variable {s : State}

theorem transfer_of_opovr {k : Out State} (h : s.pfx.opovr = true) : transfer s k = .refused .opsize16Transfer := if_pos h

theorem exec_callRel32_refused {v : Word} (h : s.pfx.opovr = true) :
    exec (.callRel32 v) s = .refused .opsize16Transfer := transfer_of_opovr h

/-- Under the byte 66 CALL is refused unless the byte 67 refuses its operand first (47_control_transfer.md R421, R441). -/
theorem exec_callRm32_refused {d : Rm} (h : s.pfx.opovr = true) (hd : ∀ o, d = .mem o → s.pfx.as32 = true) :
    exec (.callRm32 d) s = .refused .opsize16Transfer := by
  cases d with
  | reg r => exact transfer_of_opovr h
  | mem o => exact (addressed_of_as32 (hd o rfl)).trans (transfer_of_opovr h)

theorem exec_ret_refused (h : s.pfx.opovr = true) : exec .ret s = .refused .opsize16Transfer := transfer_of_opovr h

theorem exec_leave_refused (h : s.pfx.opovr = true) : exec .leave s = .refused .opsize16Leave := if_pos h

theorem exec_stos_refused (h : s.pfx.as32 = false) : exec .stos s = .refused .addr16Stos :=
  if_neg (Bool.eq_false_iff.1 h)

end

/-! ## What a step refuses -/

/-- A memory operand has an encoding under 32-bit addressing only (41_addressing.md R184). -/
theorem as32_of_mem_wf {m : DecodeMode} {o : MemOperand} (h : o.wf m = true) : m.as32 = true := by
  cases o with
  | base | baseDisp8 | baseDisp32 => exact (Bool.and_eq_true_iff.1 h).1
  | disp32 | sib | sibDisp8 | sibDisp32 => exact h

theorem stepRefusals_of_prefixRun {n : Nat} {s t : State} (h : PrefixRun n s.begin t) (hn : n ≤ s.mem.capacity) :
    StepRefusals s t := by
  refine ⟨fun hin => ⟨fun hp hb => ?transfers, fun hp hb => ?leave, fun has hb => ?stos, fun hin2 =>
    ⟨fun hp hb h2 => ?jcc, fun has hb h2 => ?addr16, fun hb h2 => ?lea⟩⟩, fun d hp hd hbytes => ?call⟩
  case transfers =>
    have first := atBytes_first hin
    obtain hret | hrel := List.mem_cons.1 hb
    · rw [hret] at first
      exact step_refusedExec h hn (decode_nullary first rfl) (exec_ret_refused hp)
    · exact step_refusedDecode h hn (decode_relOpcode first hrel hp)
  case leave => exact step_refusedExec h hn (decode_nullary (hb ▸ atBytes_first hin) rfl) (exec_leave_refused hp)
  case stos => exact step_refusedExec h hn (decode_nullary (hb ▸ atBytes_first hin) rfl) (exec_stos_refused has)
  case jcc => exact step_refusedDecode h hn ((decodeAt_escape hin hin2 hb).trans (runSecond_relative h2 hp))
  case addr16 =>
    exact step_refusedDecode h hn (decode_modrmOpcode_addr16 (atBytes_first hin) hb (memFetch_second hin2) h2 has)
  case lea => exact step_refusedDecode h hn (decode_lea_reg (hb ▸ atBytes_first hin) (memFetch_second hin2) h2)
  case call =>
    have decoded := decode_encode (i := .callRm32 d) hd rfl (memFetch_atBytes hbytes)
    refine step_refusedExec h hn decoded (exec_callRm32_refused hp ?_)
    rintro o rfl
    exact as32_of_mem_wf hd

/-- Settles O60: the meanings test the size bytes first; a step decodes to such a meaning or its decoder refuses. -/
theorem sizePrefixRefusals : Obligations.SizePrefixRefusals := by
  refine ⟨fun s v r o => ⟨fun hp => ?_, fun has => ⟨exec_stos_refused has, addressed_of_not_as32 has⟩⟩,
    fun _ _ _ => stepRefusals_of_prefixRun⟩
  exact ⟨exec_callRel32_refused hp, exec_callRm32_refused hp nofun, fun has => exec_callRm32_refused hp fun _ _ => has,
    exec_ret_refused hp, exec_leave_refused hp⟩

end Sys2Proof.Machine

/-! PROOFS. The flags and the results of the two-operand operations in terms of numbers, and what an operation leaves when it
completes on its operands (40_flags.md R150 to R160, 42_arith_logic.md R210, R211). -/

namespace Sys2Proof.Machine

open Sys2Proof

section

variable {n : Nat}

/-! ## Carries and borrows -/

/-- Each bit of the chain of a sum is the carry into the position above it (40_flags.md R151). -/
theorem addChain_getLsbD (a b : BitVec n) {i j : Nat} (hj : i + 1 = j) (hn : j ≤ n) :
    (addChain a b (a + b)).getLsbD i = BitVec.carry j a b false := by
  subst hj
  simp only [addChain, BitVec.getLsbD_or, BitVec.getLsbD_and, BitVec.getLsbD_not, BitVec.getLsbD_add hn,
    decide_eq_true (p := i < n) hn, Bool.true_and, BitVec.carry_succ]
  generalize a.getLsbD i = x, b.getLsbD i = y, BitVec.carry i a b false = c
  revert x y c
  decide

/-- The borrows of a difference are the carries of the sum that gives its minuend back. -/
theorem subChain_eq_addChain (a b r : BitVec n) : subChain a b r = addChain r b a := by
  apply BitVec.eq_of_getLsbD_eq
  intro i hi
  simp only [subChain, addChain, BitVec.getLsbD_or, BitVec.getLsbD_and, BitVec.getLsbD_not, hi, decide_true, Bool.true_and]
  generalize a.getLsbD i = x, b.getLsbD i = y, r.getLsbD i = z
  revert x y z
  decide

/-- Each bit of the chain of a difference is the borrow out of its position (40_flags.md R152). -/
theorem subChain_getLsbD (a b : BitVec n) {i j : Nat} (hj : i + 1 = j) (hn : j ≤ n) :
    (subChain a b (a - b)).getLsbD i = BitVec.carry j (a - b) b false := by
  have sum := addChain_getLsbD (a - b) b hj hn
  rwa [BitVec.sub_add_cancel, ← subChain_eq_addChain] at sum

theorem carry_all (a b : BitVec n) : BitVec.carry n a b false = true ↔ 2 ^ n ≤ a.toNat + b.toNat := by
  simp [BitVec.carry, Nat.mod_eq_of_lt a.isLt, Nat.mod_eq_of_lt b.isLt]

theorem carry_four (a b : BitVec n) : BitVec.carry 4 a b false = true ↔ 16 ≤ a.toNat % 16 + b.toNat % 16 := by
  simp [BitVec.carry]

/-- A sum overflows as a signed number where the carries into and out of its top bit differ (40_flags.md R151, R159). -/
theorem carry_xor_carry_add (a b : BitVec n) (hn : 0 < n) :
    (BitVec.carry n a b false ^^ BitVec.carry (n - 1) a b false) = true ↔ ¬ FitsSigned n (a.toInt + b.toInt) := by
  have overflow : a.saddOverflow b = true ↔ ¬ FitsSigned n (a.toInt + b.toInt) := by
    simp only [BitVec.saddOverflow, FitsSigned, Bool.or_eq_true, decide_eq_true_eq]
    omega
  obtain ⟨k, rfl⟩ : ∃ k, n = k + 1 := ⟨n - 1, by omega⟩
  rw [← overflow, BitVec.saddOverflow_eq, BitVec.carry_succ]
  simp only [BitVec.msb_eq_getLsbD_last, Nat.add_sub_cancel, BitVec.getLsbD_add (Nat.lt_succ_self k)]
  generalize a.getLsbD k = x, b.getLsbD k = y, BitVec.carry k a b false = c
  revert x y c
  decide

/-- A difference overflows as a signed number where the borrows into and out of its top bit differ (40_flags.md R152,
R159). -/
theorem carry_xor_carry_sub (a b : BitVec n) (hn : 0 < n) :
    (BitVec.carry n (a - b) b false ^^ BitVec.carry (n - 1) (a - b) b false) = true ↔
      ¬ FitsSigned n (a.toInt - b.toInt) := by
  have overflow : a.ssubOverflow b = true ↔ ¬ FitsSigned n (a.toInt - b.toInt) := by
    simp only [BitVec.ssubOverflow, FitsSigned, Bool.or_eq_true, decide_eq_true_eq]
    omega
  obtain ⟨k, rfl⟩ : ∃ k, n = k + 1 := ⟨n - 1, by omega⟩
  have top := BitVec.getLsbD_add (Nat.lt_succ_self k) (a - b) b
  rw [BitVec.sub_add_cancel] at top
  rw [← overflow, BitVec.ssubOverflow_eq, BitVec.carry_succ]
  simp only [BitVec.msb_eq_getLsbD_last, Nat.add_sub_cancel, top]
  generalize (a - b).getLsbD k = x, b.getLsbD k = y, BitVec.carry k (a - b) b false = c
  revert x y c
  decide

theorem sub_add_toNat (a b : BitVec n) : ((a - b).toNat + b.toNat) % 2 ^ n = a.toNat := by
  rw [← BitVec.toNat_add, BitVec.sub_add_cancel]

/-- A difference borrows where the subtrahend is the greater one. -/
theorem sub_add_carries (a b : BitVec n) : 2 ^ n ≤ (a - b).toNat + b.toNat ↔ a.toNat < b.toNat := by
  have sum := sub_add_toNat a b
  have difference := (a - b).isLt
  have subtrahend := b.isLt
  by_cases h : (a - b).toNat + b.toNat < 2 ^ n
  · rw [Nat.mod_eq_of_lt h] at sum
    omega
  · rw [Nat.mod_eq_sub_mod (by omega), Nat.mod_eq_of_lt (by omega)] at sum
    omega

theorem sub_add_carries_four (a b : BitVec n) (hn : 4 ≤ n) :
    16 ≤ (a - b).toNat % 16 + b.toNat % 16 ↔ a.toNat % 16 < b.toNat % 16 := by
  have sum : ((a - b).toNat + b.toNat) % 16 = a.toNat % 16 := by
    have divides : 16 ∣ 2 ^ n := pow_dvd_pow 2 hn
    rw [← sub_add_toNat a b, Nat.mod_mod_of_dvd _ divides]
  omega

/-! ## The flag functions -/

/-- The number of 1 bits of a byte is even where their exclusive or is 0 (40_flags.md R155). -/
theorem parity_eq_true (b : Byte) :
    parity b = true ↔ (List.range 8).countP (fun k => b.getLsbD k) % 2 = 0 := by
  revert b; decide

theorem szpOf_flagsSzp (r : BitVec n) (f : Flags) : SzpOf r (flagsSzp r f) := by
  refine ⟨?_, ?_, ?_⟩
  · rw [flagsSzp, ← BitVec.msb_eq_getLsbD_last, BitVec.msb_eq_toInt, decide_eq_true_eq]
  · rw [flagsSzp, beq_iff_eq, ← BitVec.toNat_inj, BitVec.toNat_zero]
  · have lowByte : ∀ k ∈ List.range 8, (r.setWidth 8).getLsbD k = r.getLsbD k := fun k hk => by
      rw [BitVec.getLsbD_setWidth, decide_eq_true (List.mem_range.1 hk), Bool.true_and]
    rw [flagsSzp, parity_eq_true, List.countP_congr fun k hk => by rw [lowByte k hk]]

/-- The flags of an addition (40_flags.md R151, R159). -/
theorem addFlags_flagsAdd (a b : BitVec n) (f : Flags) (hn : 4 ≤ n) : AddFlags a b (a + b) f (flagsAdd a b (a + b) f) := by
  have top := addChain_getLsbD a b (i := n - 1) (j := n) (by omega) (Nat.le_refl n)
  have second := addChain_getLsbD a b (i := n - 2) (j := n - 1) (by omega) (by omega)
  have nibble := addChain_getLsbD a b (i := 3) rfl hn
  refine ⟨?_, ?_, ?_, szpOf_flagsSzp .., flagsAdd_stored ..⟩
  · rw [← carry_all, ← top]
    rfl
  · rw [← carry_xor_carry_add a b (by omega), ← top, ← second]
    rfl
  · rw [← carry_four, ← nibble]
    rfl

/-- The flags of a subtraction (40_flags.md R152, R159). -/
theorem subFlags_flagsSub (a b : BitVec n) (f : Flags) (hn : 4 ≤ n) : SubFlags a b (a - b) f (flagsSub a b (a - b) f) := by
  have top := subChain_getLsbD a b (i := n - 1) (j := n) (by omega) (Nat.le_refl n)
  have second := subChain_getLsbD a b (i := n - 2) (j := n - 1) (by omega) (by omega)
  have nibble := subChain_getLsbD a b (i := 3) rfl hn
  refine ⟨?_, ?_, ?_, szpOf_flagsSzp .., flagsSub_stored ..⟩
  · rw [← sub_add_carries, ← carry_all, ← top]
    rfl
  · rw [← carry_xor_carry_sub a b (by omega), ← top, ← second]
    rfl
  · rw [← sub_add_carries_four a b hn, ← carry_four, ← nibble]
    rfl

/-- The flags of a logical operation (40_flags.md R154). -/
theorem logicFlags_flagsLogic (r : BitVec n) (f : Flags) : LogicFlags r f (flagsLogic r f) :=
  ⟨rfl, rfl, rfl, szpOf_flagsSzp .., flagsLogic_stored ..⟩

/-! ## The two-operand operations -/

theorem aluResult_value (op : AluOp) (a b : BitVec n) : AluValue op a b (aluResult op a b) := by
  cases op with
  | add => exact BitVec.toNat_add a b
  | or => exact fun k => BitVec.getLsbD_or
  | and | test => exact fun k => BitVec.getLsbD_and
  | xor => exact fun k => BitVec.getLsbD_xor
  | sub | cmp => exact sub_add_toNat a b

theorem aluFlags_flagsOf (op : AluOp) (a b : BitVec n) (f : Flags) (hn : 4 ≤ n) :
    AluFlagsOf op a b (aluResult op a b) f (aluFlags op a b (aluResult op a b) f) := by
  cases op with
  | add => exact addFlags_flagsAdd a b f hn
  | sub | cmp => exact subFlags_flagsSub a b f hn
  | or | and | xor | test => exact logicFlags_flagsLogic _ f

end

section

variable {w : Width} {d : Rm} {s : State} {op : AluOp} {write : BitVec w.bits → State → Out State}

/-- The operations that write their destination (42_arith_logic.md R210) write it, then the flags. -/
theorem aluFinish_of_writes (hw : ∀ r, write r s = .next (rmWritten w d r s)) (hop : aluWrites op = true)
    (a b : BitVec w.bits) :
    aluFinish op a b write s =
      .next ((rmWritten w d (aluResult op a b) s).setFlags (aluFlags op a b (aluResult op a b) s.flags)) := by
  rw [aluFinish, if_pos hop, hw, chain_next, rmWritten_flags]

/-- An operation completes on `a` and `b` where its result can be written (42_arith_logic.md R211). -/
theorem aluFinish_done (hw : ∀ r, write r s = .next (rmWritten w d r s)) (op : AluOp) (a b : BitVec w.bits) :
    AluDone op w d a b s (aluFinish op a b write s) := by
  have wide : 4 ≤ w.bits := by cases w <;> decide
  have value := aluResult_value op a b
  have flags := aluFlags_flagsOf op a b s.flags wide
  cases op with
  | cmp | test => exact ⟨_, _, rfl, value, flags, ⟨⟨rfl, rfl, rfl, rfl, rfl⟩, rfl, rfl⟩, fun _ => rfl, fun _ => rfl⟩
  | add | or | and | sub | xor =>
    obtain ⟨-, same⟩ := rmWritten_restKept w d _ s
    exact ⟨_, _, aluFinish_of_writes hw rfl a b, value, flags, same, (rmWritten_written ..).setFlags _⟩

end

theorem aluRmImm_done {w : Width} {d : Rm} {s : State} (h : Accessible w d s) (op : AluOp) (imm : BitVec w.bits) :
    AluDone op w d (operand w d s) imm s (aluRmImm op w d imm s) := by
  rw [aluRmImm, rmRead_of_accessible h, chain_next]
  exact aluFinish_done (fun r => rmWrite_of_accessible r h) op _ imm

/-- Settles O35: each form is its operation on the first operand, with the immediate cut or extended to the operand size. -/
theorem aluRmImmForms : Obligations.AluRmImmForms := by
  intro d b v s h
  have done (op : AluOp) (imm : BitVec s.osz.bits) := aluRmImm_done h op imm
  exact ⟨⟨done .add _, done .or _, done .and _, done .sub _, done .xor _, done .cmp _, done .test _⟩,
    done .add _, done .or _, done .and _, done .sub _, done .xor _, done .cmp _⟩

end Sys2Proof.Machine

/-! PROOFS. The flags of every operation and the conditions they bring about, in terms of numbers; the two-operand and
one-operand forms complete on their operands, and SUB undoes ADD and DEC undoes INC; the conditional jumps (40_flags.md,
42_arith_logic.md R210, R211, R268 to R273, 47_control_transfer.md R393 to R409). -/

namespace Sys2Proof.Machine

open Sys2Proof

/-! ## The flag functions at every width -/

theorem four_le_bits (w : Width) : 4 ≤ w.bits := by cases w <;> decide

theorem one_toNat (w : Width) : (1 : BitVec w.bits).toNat = 1 := by cases w <;> rfl

/-- Settles O28: no flag of a logical operation depends on the width. -/
theorem logicFlagsClearAndTest : Obligations.LogicFlagsClearAndTest := fun _ r f => logicFlags_flagsLogic r f

/-- Settles O27: at a width of four bits or more, the chains hold the carries and borrows that the flags are read from. -/
theorem addSubFlagsInNumbers : Obligations.AddSubFlagsInNumbers := fun w a b f =>
  ⟨addFlags_flagsAdd a b f (four_le_bits w), subFlags_flagsSub a b f (four_le_bits w)⟩

section

variable {n : Nat}

/-! ## Flags by the operand -/

theorem fitsSigned_iff (z : Int) : FitsSigned n z ↔ -((2 ^ (n - 1) : Nat) : Int) ≤ z ∧ z < (2 ^ (n - 1) : Nat) := by
  rw [FitsSigned, Int.natCast_pow, Int.le_sub_one_iff, Nat.cast_ofNat]

/-- The lower half of the numbers of `n` bits is not negative, the upper half is (00_scope.md R10). -/
theorem toInt_by_half (a : BitVec n) (hn : 0 < n) :
    a.toNat < 2 ^ (n - 1) ∧ a.toInt = a.toNat ∨
      2 ^ (n - 1) ≤ a.toNat ∧ a.toNat < 2 * 2 ^ (n - 1) ∧ a.toInt = a.toNat - 2 * (2 ^ (n - 1) : Nat) := by
  have double : 2 ^ n = 2 * 2 ^ (n - 1) := by rw [← pow_succ', Nat.sub_add_cancel hn]
  have bound := a.isLt
  rw [BitVec.toInt_eq_toNat_cond]
  split
  next => omega
  next => omega

/-- The greatest signed number is the only one whose successor overflows (40_flags.md R156). -/
theorem not_fitsSigned_add_one (a : BitVec n) (hn : 0 < n) :
    ¬ FitsSigned n (a.toInt + 1) ↔ a.toNat = 2 ^ (n - 1) - 1 := by
  rw [fitsSigned_iff]
  have half := toInt_by_half a hn
  have positive : 0 < 2 ^ (n - 1) := Nat.two_pow_pos _
  omega

/-- The least signed number is the only one whose predecessor overflows (40_flags.md R156). -/
theorem not_fitsSigned_sub_one (a : BitVec n) (hn : 0 < n) :
    ¬ FitsSigned n (a.toInt - 1) ↔ a.toNat = 2 ^ (n - 1) := by
  rw [fitsSigned_iff]
  have half := toInt_by_half a hn
  omega

/-- The least signed number is the only one whose negation overflows (40_flags.md R157). -/
theorem not_fitsSigned_neg (a : BitVec n) (hn : 0 < n) : ¬ FitsSigned n (0 - a.toInt) ↔ a.toNat = 2 ^ (n - 1) := by
  rw [fitsSigned_iff]
  have half := toInt_by_half a hn
  omega

/-- OF and AF of INC are those of an addition of one (40_flags.md R156). -/
theorem incFlags_flagsInc (a : BitVec n) (f : Flags) (hn : 4 ≤ n) : IncFlags a (a + 1) f (flagsInc a (a + 1) f) := by
  obtain ⟨-, overflow, nibble, szp, stored⟩ := addFlags_flagsAdd a 1#n f hn
  rw [BitVec.toInt_one (by omega), not_fitsSigned_add_one a (by omega)] at overflow
  rw [BitVec.toNat_one (by omega)] at nibble
  exact ⟨rfl, overflow, nibble.trans (by omega), szp, stored⟩

/-- OF and AF of DEC are those of a subtraction of one (40_flags.md R156). -/
theorem decFlags_flagsDec (a : BitVec n) (f : Flags) (hn : 4 ≤ n) : DecFlags a (a - 1) f (flagsDec a (a - 1) f) := by
  obtain ⟨-, overflow, nibble, szp, stored⟩ := subFlags_flagsSub a 1#n f hn
  rw [BitVec.toInt_one (by omega), not_fitsSigned_sub_one a (by omega)] at overflow
  rw [BitVec.toNat_one (by omega)] at nibble
  exact ⟨rfl, overflow, nibble.trans (by omega), szp, stored⟩

/-- The flags of NEG are those of a subtraction from zero (40_flags.md R157). -/
theorem negFlags_flagsNeg (a : BitVec n) (f : Flags) (hn : 4 ≤ n) : NegFlags a (0 - a) f (flagsNeg a (0 - a) f) := by
  obtain ⟨carry, overflow, nibble, szp, stored⟩ := subFlags_flagsSub 0#n a f hn
  rw [BitVec.toNat_zero] at carry nibble
  rw [BitVec.toInt_zero, not_fitsSigned_neg a (by omega)] at overflow
  exact ⟨carry.trans (by omega), overflow, nibble.trans (by omega), szp, stored⟩

/-! ## The order of two numbers -/

/-- A difference overflows where it is no signed number of the width (40_flags.md R159). -/
theorem ssubOverflow_iff (a b : BitVec n) : a.ssubOverflow b = true ↔ ¬ FitsSigned n (a.toInt - b.toInt) := by
  rw [fitsSigned_iff]
  simp only [BitVec.ssubOverflow, Bool.or_eq_true, decide_eq_true_eq, Int.natCast_pow, Nat.cast_ofNat]
  omega

/-- A difference is negative where the minuend is the smaller one, unless it overflows (40_flags.md R165). -/
theorem sub_toInt_neg_iff (a b : BitVec n) :
    ((a - b).toInt < 0 ↔ FitsSigned n (a.toInt - b.toInt)) ↔ a.toInt < b.toInt := by
  by_cases h : a.ssubOverflow b = true
  · have signs := h
    simp only [BitVec.ssubOverflow_eq, BitVec.msb_eq_toInt, Bool.or_eq_true, Bool.and_eq_true, Bool.not_eq_true',
      decide_eq_true_eq, decide_eq_false_iff_not] at signs
    rw [iff_false_right ((ssubOverflow_iff a b).1 h)]
    omega
  · have fits : FitsSigned n (a.toInt - b.toInt) := not_not.1 fun noFit => h ((ssubOverflow_iff a b).2 noFit)
    rw [BitVec.toInt_sub_of_not_ssubOverflow h, iff_true_right fits]
    exact sub_neg

end

/-- Settles O29: INC and DEC are an addition and a subtraction of one that keep CF, NEG is a subtraction from zero. -/
theorem incDecNegFlagsInNumbers : Obligations.IncDecNegFlagsInNumbers := fun w a f =>
  ⟨incFlags_flagsInc a f (four_le_bits w), decFlags_flagsDec a f (four_le_bits w),
    negFlags_flagsNeg a f (four_le_bits w)⟩

/-- Settles O30: each row of the table of conditions. -/
theorem conditionTable : Obligations.ConditionTable := by
  intro f
  and_intros
  all_goals simp only [condHolds, Bool.not_eq_true', Bool.or_eq_true, Bool.and_eq_true, bne_iff_ne, beq_iff_eq]

/-! ## The conditions after a compare -/

/-- Settles O31: CF is the unsigned order, SF against OF the signed order, and ZF says that the difference is 0. -/
theorem conditionsAfterCompare : Obligations.ConditionsAfterCompare := by
  intro w a b f g
  have flags : SubFlags a b (a - b) f g := subFlags_flagsSub a b f (four_le_bits w)
  clear_value g
  obtain ⟨below, overflow, -, ⟨sign, zero, -⟩, -⟩ := flags
  obtain ⟨-, -, hb, hae, he, hne, hbe, ha, -, -, -, -, hl, hge, hle, hg⟩ := conditionTable g
  have notBelow : g.cf = false ↔ b.toNat ≤ a.toNat := by rw [← Bool.not_eq_true, below, Nat.not_lt]
  have equal : g.zf = true ↔ a = b := by
    rw [zero, ← BitVec.toNat_zero, BitVec.toNat_inj, BitVec.sub_eq_iff_eq_add, BitVec.zero_add]
  have notEqual : g.zf = false ↔ a ≠ b := by rw [← Bool.not_eq_true, equal]
  have less : g.sf ≠ g.ofl ↔ a.toInt < b.toInt := by
    rw [← sub_toInt_neg_iff, ← sign, ← not_not (a := FitsSigned _ _), ← overflow]
    generalize g.sf = x, g.ofl = y
    revert x y
    decide
  have notLess : g.sf = g.ofl ↔ b.toInt ≤ a.toInt := by rw [← not_ne_iff, less, Int.not_lt]
  refine ⟨hb.trans below, hae.trans notBelow, he.trans equal, hne.trans notEqual, ?be, ?above, hl.trans less,
    hge.trans notLess, ?le, ?greater⟩
  case be => rw [hbe, below, equal, le_iff_lt_or_eq, BitVec.toNat_inj]
  case above => rw [ha, notBelow, notEqual, lt_iff_le_and_ne, ne_comm, Ne, Ne, BitVec.toNat_inj]
  case le => rw [hle, equal, less, le_iff_lt_or_eq, BitVec.toInt_inj, or_comm]
  case greater => rw [hg, notEqual, notLess, lt_iff_le_and_ne, ne_comm, Ne, Ne, BitVec.toInt_inj, and_comm]

/-! ## The two-operand forms -/

theorem aluRmReg_done {w : Width} {d : Rm} {s : State} (h : Accessible w d s) (op : AluOp) (r : RegIdx) :
    AluDone op w d (operand w d s) (readReg w r s) s (aluRmReg op w d r s) := by
  rw [aluRmReg, rmRead_of_accessible h, chain_next]
  exact aluFinish_done (fun v => rmWrite_of_accessible v h) op _ _

theorem aluRegRm_done {w : Width} {d : Rm} {s : State} (h : Accessible w d s) (op : AluOp) (r : RegIdx) :
    AluDone op w (.reg r) (readReg w r s) (operand w d s) s (aluRegRm op w r d s) := by
  rw [aluRegRm, rmRead_of_accessible h, chain_next]
  exact aluFinish_done (fun _ => rfl) op _ _

theorem aluAccImm_done {w : Width} (op : AluOp) (imm : BitVec w.bits) (s : State) :
    AluDone op w (.reg acc) (readReg w acc s) imm s (aluAccImm op w imm s) := aluFinish_done (fun _ => rfl) op _ _

/-- Settles O32: each form is its operation on the first operand, with the register as the second. -/
theorem aluRmRegForms : Obligations.AluRmRegForms := by
  intro d r s
  have done {w : Width} (h : Accessible w d s) (op : AluOp) := aluRmReg_done h op r
  exact ⟨fun h => ⟨done h .add, done h .or, done h .and, done h .sub, done h .xor, done h .cmp, done h .test⟩,
    fun h => ⟨done h .add, done h .or, done h .and, done h .sub, done h .xor, done h .cmp, done h .test⟩⟩

/-- Settles O33: each form is its operation on the register, with the operand as the second. -/
theorem aluRegRmForms : Obligations.AluRegRmForms := by
  intro r d s
  have done {w : Width} (h : Accessible w d s) (op : AluOp) := aluRegRm_done h op r
  exact ⟨fun h => ⟨done h .add, done h .or, done h .and, done h .sub, done h .xor, done h .cmp⟩,
    fun h => ⟨done h .add, done h .or, done h .and, done h .sub, done h .xor, done h .cmp⟩⟩

/-- Settles O34: each form is its operation on the accumulator, which is always accessible. -/
theorem aluAccImmForms : Obligations.AluAccImmForms := by
  intro b v s
  have byteDone (op : AluOp) := aluAccImm_done (w := .w8) op b s
  have done (op : AluOp) := aluAccImm_done op (v.setWidth s.osz.bits) s
  exact ⟨⟨byteDone .add, byteDone .or, byteDone .and, byteDone .sub, byteDone .xor, byteDone .cmp, byteDone .test⟩,
    done .add, done .or, done .and, done .sub, done .xor, done .cmp, done .test⟩

/-! ## The one-operand forms -/

section

variable {w : Width} {d : Rm} {s : State}

/-- A one-operand form completes with its function of the operand, and with the flags of operand and result
(42_arith_logic.md R268 to R273). -/
theorem unaryRm_done (h : Accessible w d s) {f : BitVec w.bits → BitVec w.bits}
    {fl : BitVec w.bits → BitVec w.bits → Flags → Flags} {ok : BitVec w.bits → Flags → Prop}
    (hok : ok (f (operand w d s)) (fl (operand w d s) (f (operand w d s)) s.flags)) :
    UnaryDone w d s (unaryRm w d f fl s) ok := by
  obtain ⟨flags, same⟩ := rmWritten_restKept w d (f (operand w d s)) s
  rw [unaryRm, rmRead_of_accessible h, chain_next, rmWrite_of_accessible _ h, chain_next, flags]
  exact ⟨_, _, rfl, hok, (rmWritten_written ..).setFlags _, same⟩

theorem inc_done (h : Accessible w d s) :
    UnaryDone w d s (unaryRm w d (fun a => a + 1) flagsInc s) fun r g =>
      r.toNat = ((operand w d s).toNat + 1) % 2 ^ w.bits ∧ IncFlags (operand w d s) r s.flags g := by
  refine unaryRm_done h ⟨?_, incFlags_flagsInc _ _ (four_le_bits w)⟩
  rw [BitVec.toNat_add, one_toNat]

theorem dec_done (h : Accessible w d s) :
    UnaryDone w d s (unaryRm w d (fun a => a - 1) flagsDec s) fun r g =>
      (r.toNat + 1) % 2 ^ w.bits = (operand w d s).toNat ∧ DecFlags (operand w d s) r s.flags g := by
  have undone := sub_add_toNat (operand w d s) 1
  rw [one_toNat] at undone
  exact unaryRm_done h ⟨undone, decFlags_flagsDec _ _ (four_le_bits w)⟩

end

/-- Settles O36: each form is its function of the operand, INC and DEC of a register among them. -/
theorem notNegIncDecForms : Obligations.NotNegIncDecForms := by
  intro d p s
  refine ⟨fun h => ⟨unaryRm_done (f := fun a => ~~~a) (fl := fun _ _ g => g) h ⟨BitVec.toNat_not, rfl⟩,
    unaryRm_done (f := fun a => 0 - a) (fl := flagsNeg) h ⟨?_, ?_⟩, inc_done h, dec_done h⟩,
    inc_done (d := .reg p) trivial, dec_done (d := .reg p) trivial⟩
  · exact sub_add_toNat 0 _
  · exact negFlags_flagsNeg _ s.flags (four_le_bits s.osz)

/-! ## What undoes what -/

theorem regOwner_osz (s : State) (i : RegIdx) : regOwner s.osz i = i := by
  unfold State.osz
  split
  next => rfl
  next => rfl

theorem SameElse.osz {s t : State} (h : SameElse s t) : t.osz = s.osz := by
  obtain ⟨⟨pfx, -⟩, -⟩ := h
  rw [State.osz, State.osz, pfx]

section

variable {w : Width} {i : RegIdx} {s t u : State}

/-- Of two writes to one view the second stands (10_state.md R26). -/
theorem RegWritten.trans {v v' : BitVec w.bits} (h : RegWritten w i v s t) (g : RegWritten w i v' t u) :
    RegWritten w i v' s u := by
  obtain ⟨-, hothers, hbits⟩ := h
  obtain ⟨read, gothers, gbits⟩ := g
  exact ⟨read, fun j hj => (gothers j hj).trans (hothers j hj), fun k hk => (gbits k hk).trans (hbits k hk)⟩

/-- A view that holds again what it held leaves no register changed (10_state.md R26). -/
theorem RegWritten.regs_eq (h : RegWritten w i (readReg w i s) s u) : u.regs = s.regs := by
  obtain ⟨read, others, bits⟩ := h
  rw [readReg_eq_extract, readReg_eq_extract] at read
  refine State.regs_ext fun j => ?_
  by_cases hj : j = regOwner w i
  · subst hj
    refine BitVec.eq_of_getLsbD_eq fun k _ => ?_
    by_cases hk : inView w i k
    · obtain ⟨low, high⟩ := hk
      have bit := congrArg (fun x => x.getLsbD (k - viewLow w i)) read
      have inside : k - viewLow w i < w.bits := by omega
      simpa only [BitVec.getLsbD_extractLsb', decide_eq_true inside, Bool.true_and, Nat.add_sub_cancel' low] using bit
    · exact bits k hk
  · exact others j hj

end

/-- A sum taken modulo the width, with one addend known, tells the other (40_flags.md R166). -/
theorem eq_of_add_toNat_mod {n : Nat} {x y z : BitVec n}
    (h : (x.toNat + z.toNat) % 2 ^ n = (y.toNat + z.toNat) % 2 ^ n) : x = y := by
  rw [← BitVec.toNat_add, ← BitVec.toNat_add, BitVec.toNat_inj] at h
  exact (BitVec.add_left_inj z).1 h

theorem addThenSub_restores {p q : RegIdx} (hpq : p ≠ q) (s : State) :
    ∃ t u, exec (.addRmvRv (.reg p) q) s = .next t ∧ exec (.subRmvRv (.reg p) q) t = .next u ∧ u.regs = s.regs ∧
      SzpOf (readReg s.osz p s) u.flags := by
  obtain ⟨sum, t, add, sumValue, -, same, ⟨written, -⟩⟩ := aluRmReg_done (d := .reg p) (s := s) trivial .add q
  have sub : AluDone .sub t.osz (.reg p) (readReg t.osz p t) (readReg t.osz q t) t (exec (.subRmvRv (.reg p) q) t) :=
    aluRmReg_done (d := .reg p) trivial .sub q
  rw [same.osz] at sub
  obtain ⟨r, u, sub, value, ⟨-, -, -, szp, -⟩, -, ⟨rewritten, -⟩⟩ := sub
  obtain ⟨holds, others, -⟩ := id written
  have owners : regOwner s.osz q ≠ regOwner s.osz p := by rw [regOwner_osz, regOwner_osz]; exact hpq.symm
  have addend : readReg s.osz q t = readReg s.osz q s := by
    rw [readReg_eq_extract, readReg_eq_extract, others _ owners]
  rw [holds, addend] at value
  obtain rfl : r = readReg s.osz p s := eq_of_add_toNat_mod (value.trans sumValue)
  exact ⟨t, u, add, sub, (written.trans rewritten).regs_eq, szp⟩

theorem incThenDec_restores (p : RegIdx) (s : State) :
    ∃ t u, exec (.incRv p) s = .next t ∧ exec (.decRv p) t = .next u ∧ u.regs = s.regs ∧ u.flags.cf = s.flags.cf := by
  obtain ⟨sum, t, inc, ⟨sumValue, carry, -⟩, ⟨written, -⟩, same⟩ := inc_done (d := .reg p) (s := s) trivial
  have dec : UnaryDone t.osz (.reg p) t (exec (.decRv p) t) _ := dec_done (d := .reg p) trivial
  rw [same.osz] at dec
  obtain ⟨r, u, dec, ⟨value, carry', -⟩, ⟨rewritten, -⟩, -⟩ := dec
  obtain ⟨holds, -, -⟩ := id written
  rw [operand, holds, sumValue, ← one_toNat s.osz] at value
  obtain rfl : r = readReg s.osz p s := eq_of_add_toNat_mod value
  exact ⟨t, u, inc, dec, (written.trans rewritten).regs_eq, carry'.trans carry⟩

/-- Settles O37: the second instruction writes back, to the view the first one wrote, what it held. -/
theorem addSubAndIncDecRestore : Obligations.AddSubAndIncDecRestore := fun p _ s =>
  ⟨fun hpq => addThenSub_restores hpq s, incThenDec_restores p s⟩

/-! ## The conditional jumps -/

/-- Setting IP is all that a jump does (47_control_transfer.md R390). -/
theorem jumpDone_setIp (target : Word) (s : State) : JumpDone target s (.next (s.setIp target)) :=
  ⟨_, rfl, rfl, fun _ => rfl, fun _ => rfl, rfl, ⟨rfl, rfl, rfl, rfl, rfl⟩, rfl⟩

/-- An unrefused conditional jump goes to its target or on (47_control_transfer.md R393). -/
theorem jumpIf_done {s : State} (h : s.pfx.opovr = false) (c : Cond) (rel : Word) :
    JumpDone (if condHolds s.flags c then BitVec.ofInt 32 (s.ip.toNat + rel.toInt) else s.ip) s (jumpIf c rel s) := by
  rw [jumpIf, transfer_of_not_opovr h, ← relTarget_eq_ofInt]
  split
  next => exact jumpDone_setIp _ s
  next => exact jumpDone_setIp s.ip s

/-- The short and the near form of a jump on one condition (47_control_transfer.md R393, R441). -/
theorem jumpIf_forms {s : State} {c : Cond} {taken : Bool} (h : condHolds s.flags c = taken) (b : Byte) (v : Word) :
    (s.pfx.opovr = false →
      JumpDone (if taken then BitVec.ofInt 32 (s.ip.toNat + b.toInt) else s.ip) s (jumpIf c (b.signExtend 32) s) ∧
        JumpDone (if taken then BitVec.ofInt 32 (s.ip.toNat + v.toInt) else s.ip) s (jumpIf c v s)) ∧
      (s.pfx.opovr = true → jumpIf c (b.signExtend 32) s = .refused .opsize16Transfer ∧
        jumpIf c v s = .refused .opsize16Transfer) := by
  subst h
  refine ⟨fun hp => ⟨?_, jumpIf_done hp c v⟩, fun hp => ⟨transfer_of_opovr hp, transfer_of_opovr hp⟩⟩
  rw [← BitVec.toInt_signExtend_of_le (v := 32) (by decide)]
  exact jumpIf_done hp c _

/-- Settles O54: each pair of forms is the jump on its row of the table of conditions. -/
theorem conditionalJumps : Obligations.ConditionalJumps := by
  intro b v s go f
  have above : (!f.cf && !f.zf) = !(f.cf || f.zf) := (Bool.not_or ..).symm
  have notLess : ∀ x y : Bool, (x == y) = !(x ^^ y) := by decide
  have greater : (!f.zf && (f.sf == f.ofl)) = !(f.zf || (f.sf ^^ f.ofl)) := by rw [notLess, Bool.not_or]
  exact ⟨jumpIf_forms (c := .o) rfl b v, jumpIf_forms (c := .no) rfl b v, jumpIf_forms (c := .b) rfl b v,
    jumpIf_forms (c := .ae) rfl b v, jumpIf_forms (c := .e) rfl b v, jumpIf_forms (c := .ne) rfl b v,
    jumpIf_forms (c := .be) rfl b v, jumpIf_forms (c := .a) above b v, jumpIf_forms (c := .s) rfl b v,
    jumpIf_forms (c := .ns) rfl b v, jumpIf_forms (c := .p) rfl b v, jumpIf_forms (c := .np) rfl b v,
    jumpIf_forms (c := .l) rfl b v, jumpIf_forms (c := .ge) (notLess ..) b v, jumpIf_forms (c := .le) rfl b v,
    jumpIf_forms (c := .g) greater b v⟩

end Sys2Proof.Machine

/-! PROOFS. The effective address of every memory form as a sum of numbers modulo 2^32, and LEA, which writes it
(41_addressing.md R186, R187; 45_data_movement.md R359). -/

namespace Sys2Proof.Machine

open Sys2Proof

/-! ## Sums of numbers modulo 2^n -/

/-- A word given as a sum of numbers holds that sum modulo 2^n. -/
theorem toNat_of_eq_ofInt {n : Nat} {a : BitVec n} {z : Int} (h : a = BitVec.ofInt n z) : (a.toNat : Int) = z % 2 ^ n := by
  have modulus : ((2 ^ n : Nat) : Int) = 2 ^ n := by push_cast; rfl
  rw [h, BitVec.toNat_ofInt, modulus, Int.toNat_of_nonneg (Int.emod_nonneg z (by positivity))]

theorem eq_ofInt_toNat {n : Nat} (a : BitVec n) : a = BitVec.ofInt n a.toNat := by
  rw [BitVec.ofInt_natCast, BitVec.ofNat_toNat, BitVec.setWidth_eq]

theorem shiftLeft_eq_ofInt {n : Nat} (a : BitVec n) (k : Nat) : a <<< k = BitVec.ofInt n (a.toNat * 2 ^ k) := by
  have shifted : (a.toNat * 2 ^ k : Int) = (a.toNat <<< k : Nat) := by rw [Nat.shiftLeft_eq]; push_cast; rfl
  rw [shifted, BitVec.ofInt_natCast]
  rfl

/-! ## The parts of an address -/

/-- The scaled index as a number; index 4 is no index (41_addressing.md R187). -/
def indexTerm (sc : BitVec 2) (ix : RegIdx) (s : State) : Int :=
  if ix = 4#3 then 0 else (s.reg ix).toNat * 2 ^ sc.toNat

theorem index_eq_ofInt (sc : BitVec 2) (ix : RegIdx) (s : State) :
    (if ix = 4#3 then 0 else s.reg ix <<< sc.toNat) = BitVec.ofInt 32 (indexTerm sc ix s) := by
  unfold indexTerm
  split
  next => rfl
  next => exact shiftLeft_eq_ofInt ..

theorem sibSum_eq_ofInt {base : Word} {b : Int} (h : base = BitVec.ofInt 32 b) (sc : BitVec 2) (ix : RegIdx) (s : State) :
    sibSum sc ix base s = BitVec.ofInt 32 (b + indexTerm sc ix s) := by
  rw [sibSum, index_eq_ofInt, h, BitVec.ofInt_add]

/-! ## The address -/

/-- What each memory form adds up (41_addressing.md R186, R187): a base of 5 contributes nothing only where no displacement
follows the SIB byte. -/
def addressSum (o : MemOperand) (s : State) : Int :=
  match o with
  | .base r => (s.reg r).toNat
  | .disp32 d => d.toNat
  | .baseDisp8 r d => (s.reg r).toNat + d.toInt
  | .baseDisp32 r d => (s.reg r).toNat + d.toInt
  | .sib sc ix bs => (if bs = 5#3 then 0 else (s.reg bs).toNat : Int) + indexTerm sc ix s
  | .sibDisp8 sc ix bs d => (s.reg bs).toNat + indexTerm sc ix s + d.toInt
  | .sibDisp32 sc ix bs d => (s.reg bs).toNat + indexTerm sc ix s + d.toInt

theorem ea_eq_ofInt (o : MemOperand) (s : State) : ea o s = BitVec.ofInt 32 (addressSum o s) := by
  cases o with
  | base r => exact eq_ofInt_toNat (s.reg r)
  | disp32 d => exact eq_ofInt_toNat d
  | baseDisp8 r d => rw [ea, addressSum, BitVec.ofInt_add, ← eq_ofInt_toNat, BitVec.signExtend]
  | baseDisp32 r d => rw [ea, addressSum, BitVec.ofInt_add, ← eq_ofInt_toNat, BitVec.ofInt_toInt]
  | sib sc ix bs =>
    refine sibSum_eq_ofInt ?_ sc ix s
    split
    next => rfl
    next => exact eq_ofInt_toNat (s.reg bs)
  | sibDisp8 sc ix bs d =>
    rw [ea, addressSum, BitVec.ofInt_add, sibSum_eq_ofInt (eq_ofInt_toNat _), BitVec.signExtend]
  | sibDisp32 sc ix bs d =>
    rw [ea, addressSum, BitVec.ofInt_add, sibSum_eq_ofInt (eq_ofInt_toNat _), BitVec.ofInt_toInt]

theorem ea_toNat (o : MemOperand) (s : State) : ((ea o s).toNat : Int) = addressSum o s % 2 ^ 32 :=
  toNat_of_eq_ofInt (ea_eq_ofInt o s)

/-- Settles O26: a base or a displacement alone is the address itself, and every other form is its sum modulo 2^32. -/
theorem effectiveAddressTable : Obligations.EffectiveAddressTable := fun s r bs ix sc d8 d32 =>
  ⟨rfl, rfl, ea_toNat (.baseDisp8 r d8) s, ea_toNat (.baseDisp32 r d32) s, ea_toNat (.sib sc ix bs) s,
    ea_toNat (.sibDisp8 sc ix bs d8) s, ea_toNat (.sibDisp32 sc ix bs d32) s⟩

/-! ## LEA -/

theorem exec_lea (r : RegIdx) (o : MemOperand) (s : State) :
    exec (.lea r o) s = addressed s (.next (writeReg s.osz r ((ea o s).setWidth s.osz.bits) s)) := rfl

/-- Settles O48: with 32-bit addresses LEA is the write of a register operand, and no access decides whether it completes. -/
theorem leaWritesTheAddress : Obligations.LeaWritesTheAddress := by
  intro r o s h
  rw [exec_lea, addressed_of_as32 h]
  exact ⟨_, rfl, rmWritten_written s.osz (.reg r) _ s, rmWritten_restKept s.osz (.reg r) _ s⟩

end Sys2Proof.Machine

/-! PROOFS. MUL, IMUL, DIV and IDIV: products and quotients as numbers, the pair of registers they are written to, and where
a division has no result (43_muldiv.md). -/

namespace Sys2Proof.Machine

open Sys2Proof

section

variable {n : Nat}

/-! ## Numbers of n bits -/

theorem toInt_fitsSigned (a : BitVec n) : FitsSigned n a.toInt := ⟨a.le_toInt, Int.le_sub_one_of_lt a.toInt_lt⟩

theorem toInt_ofInt_of_fitsSigned {z : Int} (hn : 0 < n) (h : FitsSigned n z) : (BitVec.ofInt n z).toInt = z := by
  obtain ⟨lower, upper⟩ := h
  exact BitVec.toInt_ofInt_eq_self hn lower (Int.lt_of_le_sub_one upper)

/-- The integers that `n` bits hold as signed numbers are those that fit (00_scope.md R10). -/
theorem eq_toInt_ofInt_iff (z : Int) (hn : 0 < n) : z = (BitVec.ofInt n z).toInt ↔ FitsSigned n z :=
  ⟨fun h => h ▸ toInt_fitsSigned _, fun h => (toInt_ofInt_of_fitsSigned hn h).symm⟩

theorem toNat_ofNat_of_lt {x : Nat} (h : x < 2 ^ n) : (BitVec.ofNat n x).toNat = x :=
  (BitVec.toNat_ofNat ..).trans (Nat.mod_eq_of_lt h)

/-! ## Products -/

/-- The two halves of a number of `2 n` bits, put together (43_muldiv.md R290). -/
theorem ofNat_halves {p : Nat} (h : p < 2 ^ n * 2 ^ n) :
    (BitVec.ofNat n (p / 2 ^ n)).toNat * 2 ^ n + (BitVec.ofNat n p).toNat = p := by
  rw [toNat_ofNat_of_lt (Nat.div_lt_of_lt_mul h), BitVec.toNat_ofNat, Nat.div_add_mod']

/-- The high half of a product is not zero where the product does not fit in the low half (43_muldiv.md R291). -/
theorem high_bne_zero_iff {p : Nat} (h : p < 2 ^ n * 2 ^ n) :
    (BitVec.ofNat n (p / 2 ^ n) != 0) = true ↔ 2 ^ n ≤ p := by
  have high := toNat_ofNat_of_lt (Nat.div_lt_of_lt_mul h)
  have zero : (0 : BitVec n).toNat = 0 := BitVec.toNat_zero
  rw [bne_iff_ne, Ne, ← BitVec.toNat_inj, high, zero, Nat.div_eq_zero_iff_lt (Nat.two_pow_pos n), Nat.not_lt]

theorem toNat_mul_toNat_lt (a b : BitVec n) : a.toNat * b.toNat < 2 ^ n * 2 ^ n := Nat.mul_lt_mul'' a.isLt b.isLt

/-- The high half of a signed product fits, the product of the two least numbers included (43_muldiv.md R293). -/
theorem high_fitsSigned (a b : BitVec n) (hn : 0 < n) : FitsSigned n (a.toInt * b.toInt / 2 ^ n) := by
  obtain ⟨k, rfl⟩ : ∃ k, n = k + 1 := ⟨n - 1, by omega⟩
  have lower := BitVec.le_toInt_mul_toInt (x := a) (y := b)
  have upper := BitVec.toInt_mul_toInt_le (x := a) (y := b)
  have exponent : (k + 1) * 2 - 2 = k + k := by omega
  have positive : (0 : Int) < 2 ^ k * 2 ^ k := by positivity
  rw [exponent, pow_add] at lower upper
  rw [FitsSigned, Int.le_sub_one_iff, Int.le_ediv_iff_mul_le (by positivity), Int.ediv_lt_iff_lt_mul (by positivity),
    Nat.add_sub_cancel, pow_succ]
  constructor
  · linarith
  · linarith

/-- The two halves of a signed number, put together (43_muldiv.md R290, R293). -/
theorem ofInt_halves {p : Int} (hn : 0 < n) (h : FitsSigned n (p / 2 ^ n)) :
    (BitVec.ofInt n (p / 2 ^ n)).toInt * 2 ^ n + (BitVec.ofInt n p).toNat = p := by
  rw [toInt_ofInt_of_fitsSigned hn h, toNat_of_eq_ofInt rfl, Int.ediv_mul_add_emod]

/-! ## Quotients and remainders -/

/-- The quotient fits where the divisor is greater than the high half of the dividend (43_muldiv.md R294). -/
theorem quotient_lt_iff (hi lo b : BitVec n) (hb : b ≠ 0) :
    (hi.toNat * 2 ^ n + lo.toNat) / b.toNat < 2 ^ n ↔ hi.toNat < b.toNat := by
  have positive : 0 < b.toNat := Nat.pos_of_ne_zero fun h => hb (BitVec.eq_of_toNat_eq h)
  have low := lo.isLt
  rw [Nat.div_lt_iff_lt_mul positive, Nat.mul_comm (2 ^ n)]
  constructor
  · intro h
    exact Nat.lt_of_mul_lt_mul_right (Nat.lt_of_le_of_lt (Nat.le_add_right ..) h)
  · intro h
    calc hi.toNat * 2 ^ n + lo.toNat < (hi.toNat + 1) * 2 ^ n := by rw [Nat.succ_mul]; omega
      _ ≤ b.toNat * 2 ^ n := Nat.mul_le_mul_right _ h

theorem ne_zero_of_toNat_lt {a b : BitVec n} (h : a.toNat < b.toNat) : b ≠ 0 := by
  rintro rfl
  exact Nat.not_lt_zero _ h

theorem toInt_ne_zero {b : BitVec n} (hb : b ≠ 0) : b.toInt ≠ 0 :=
  fun h => hb (BitVec.toInt_inj.1 (h.trans BitVec.toInt_zero.symm))

theorem tmod_natAbs_lt (D : Int) {v : Int} (hv : v ≠ 0) : (D.tmod v).natAbs < v.natAbs := by
  rw [Int.natAbs_tmod]
  exact Nat.mod_lt _ (Int.natAbs_pos.2 hv)

/-- The remainder of a division by a signed number is one of the same width (43_muldiv.md R295). -/
theorem tmod_fitsSigned (D : Int) {b : BitVec n} (hb : b ≠ 0) : FitsSigned n (D.tmod b.toInt) := by
  have smaller := tmod_natAbs_lt D (toInt_ne_zero hb)
  obtain ⟨lower, upper⟩ := toInt_fitsSigned b
  constructor
  · omega
  · omega

/-- The remainder of the division toward zero has the sign of the dividend (43_muldiv.md R295). -/
theorem tmod_sign (D v : Int) : D.tmod v = 0 ∨ (D.tmod v < 0 ↔ D < 0) := by
  have sign := Int.sign_tmod D v
  by_cases h : v ∣ D
  · exact .inl (Int.tmod_eq_zero_of_dvd h)
  · rw [if_neg h] at sign
    rw [← Int.sign_eq_neg_one_iff_neg, sign, Int.sign_eq_neg_one_iff_neg]
    exact .inr Iff.rfl

end

section

variable {w : Width} {b : BitVec w.bits} {s : State}

/-! ## The pair of registers -/

theorem bits_pos (w : Width) : 0 < w.bits := by cases w <;> decide

/-- The views of registers 0 to 3 begin at bit 0 of the register of the same number (10_state.md R24). -/
theorem view_of_lt_four (w : Width) {i : RegIdx} (hi : i.toNat < 4) : regOwner w i = i ∧ viewLow w i = 0 := by
  cases w with
  | w8 => exact ⟨if_pos hi, if_pos hi⟩
  | w16 | w32 => exact ⟨rfl, rfl⟩

/-- A view just written, when its register is one of the first four (10_state.md R26). -/
theorem RegWritten.of_lt_four {i : RegIdx} {v : BitVec w.bits} {t : State} (h : RegWritten w i v s t)
    (hi : i.toNat < 4) :
    readReg w i t = v ∧ RegsKeptBut i s t ∧ ∀ k, w.bits ≤ k → (t.reg i).getLsbD k = (s.reg i).getLsbD k := by
  obtain ⟨owner, low⟩ := view_of_lt_four w hi
  obtain ⟨read, others, bits⟩ := h
  rw [owner] at others bits
  refine ⟨read, others, fun k hk => bits k fun ⟨_, inside⟩ => ?_⟩
  omega

/-- A view of one of the first four registers holds the same where the register does. -/
theorem readReg_congr {i : RegIdx} {t u : State} (hi : i.toNat < 4) (h : t.reg i = u.reg i) :
    readReg w i t = readReg w i u := by
  obtain ⟨owner, -⟩ := view_of_lt_four w hi
  rw [readReg_eq_extract, readReg_eq_extract, owner, h]

@[simp] theorem readReg_setFlags (w : Width) (i : RegIdx) (s : State) (f : Flags) :
    readReg w i (s.setFlags f) = readReg w i s := by
  rw [readReg_eq_extract, readReg_eq_extract, State.setFlags_reg]

@[simp] theorem readReg_drawn (w : Width) (i : RegIdx) (s : State) (m : Nat) :
    readReg w i (s.drawn m) = readReg w i s := by
  rw [readReg_eq_extract, readReg_eq_extract, State.drawn_reg]

/-- What a multiplication or division leaves: its two results in the pair, and all else kept but the flags it sets
(43_muldiv.md R290, R298). -/
theorem writePair_pairWritten (lo hi : BitVec w.bits) {f : Flags} (hf : StoredFlagsKept s.flags f) (m : Nat) :
    PairWritten w lo hi s (((writePair w lo hi s).setFlags f).drawn m) := by
  obtain ⟨loRead, loOthers, loBits⟩ := (writeReg_written w acc lo s).of_lt_four (by decide)
  obtain ⟨hiRead, hiOthers, hiBits⟩ := (writeReg_written w edx hi (writeReg w acc lo s)).of_lt_four (by decide)
  have accKept : (writePair w lo hi s).reg acc = (writeReg w acc lo s).reg acc := hiOthers acc (by decide)
  have edxKept : (writeReg w acc lo s).reg edx = s.reg edx := loOthers edx (by decide)
  obtain ⟨plain, ip⟩ := writePair_plain w lo hi s
  refine ⟨?lo, ?hi, fun k hk => ⟨?loBits, ?hiBits⟩, fun i h0 h2 => (hiOthers i h2).trans (loOthers i h0), fun a => ?bytes,
    ⟨plain.pfx, plain.capacity, plain.ipStart, plain.notice, plain.hostCalls⟩, ip, hf⟩
  case lo =>
    rw [readReg_drawn, readReg_setFlags]
    exact (readReg_congr (by decide) accKept).trans loRead
  case hi =>
    rw [readReg_drawn, readReg_setFlags]
    exact hiRead
  case loBits => exact (congrArg (·.getLsbD k) accKept).trans (loBits k hk)
  case hiBits => exact (hiBits k hk).trans (congrArg (·.getLsbD k) edxKept)
  case bytes => rw [State.drawn_mem, State.setFlags_mem, writePair, writeReg_mem, writeReg_mem]

theorem mulFlags_pairWritten (lo hi : BitVec w.bits) (c : Bool) (s : State) :
    PairWritten w lo hi s (mulFlags c (writePair w lo hi s)) := by
  obtain ⟨plain, -⟩ := (writePair_plain w lo hi s).trans (mulFlags_plain c _)
  exact writePair_pairWritten lo hi plain.flags 4

theorem divFlags_pairWritten (lo hi : BitVec w.bits) (s : State) :
    PairWritten w lo hi s (divFlags (writePair w lo hi s)) := by
  obtain ⟨plain, -⟩ := (writePair_plain w lo hi s).trans (divFlags_plain _)
  exact writePair_pairWritten lo hi plain.flags 6

/-! ## What a division answers -/

theorem divWith_zero (w : Width) (s : State) : divWith w 0 s = .fault (.divideByZero s.ipStart) := if_pos rfl

theorem idivWith_zero (w : Width) (s : State) : idivWith w 0 s = .fault (.divideByZero s.ipStart) := if_pos rfl

/-- The quotient of DIV, as the model tests it, is too great where the high half is not below the divisor
(43_muldiv.md R294). -/
theorem divDividend_overflows_iff (s : State) (hb : b ≠ 0) :
    divDividend w s / b.toNat > 2 ^ w.bits - 1 ↔ b.toNat ≤ (readReg w edx s).toNat := by
  have fits := quotient_lt_iff (readReg w edx s) (readReg w acc s) b hb
  have positive := Nat.two_pow_pos w.bits
  rw [divDividend]
  omega

theorem divWith_of_le (hb : b ≠ 0) (h : b.toNat ≤ (readReg w edx s).toNat) :
    divWith w b s = .fault (.divisionOverflow s.ipStart) :=
  (if_neg hb).trans (if_pos ((divDividend_overflows_iff s hb).2 h))

theorem divWith_of_lt (h : (readReg w edx s).toNat < b.toNat) :
    divWith w b s = .next (divFlags (writePair w (BitVec.ofNat w.bits (divDividend w s / b.toNat))
      (BitVec.ofNat w.bits (divDividend w s % b.toNat)) s)) := by
  have hb : b ≠ 0 := ne_zero_of_toNat_lt h
  exact (if_neg hb).trans (if_neg fun overflow => Nat.not_le.2 h ((divDividend_overflows_iff s hb).1 overflow))

theorem not_fitsSigned_iff (n : Nat) (z : Int) : ¬ FitsSigned n z ↔ z < -(2 ^ (n - 1)) ∨ z > 2 ^ (n - 1) - 1 := by
  rw [FitsSigned, not_and_or, Int.not_le, Int.not_le]

theorem idivWith_of_not_fits (hb : b ≠ 0) (h : ¬ FitsSigned w.bits ((idivDividend w s).tdiv b.toInt)) :
    idivWith w b s = .fault (.divisionOverflow s.ipStart) :=
  (if_neg hb).trans (if_pos ((not_fitsSigned_iff ..).1 h))

/-- The remainder is written as what the quotient leaves of the dividend (43_muldiv.md R295). -/
theorem idivWith_of_fits (hb : b ≠ 0) (h : FitsSigned w.bits ((idivDividend w s).tdiv b.toInt)) :
    idivWith w b s = .next (divFlags (writePair w (BitVec.ofInt w.bits ((idivDividend w s).tdiv b.toInt))
      (BitVec.ofInt w.bits ((idivDividend w s).tmod b.toInt)) s)) := by
  rw [Int.tmod_def, Int.mul_comm]
  exact (if_neg hb).trans (if_neg fun overflow => (not_fitsSigned_iff ..).2 overflow h)

/-! ## The instructions on an accessible operand -/

variable {d : Rm}

theorem exec_mulRmv (h : Accessible s.osz d s) :
    exec (.mulRmv d) s = .next (mulWith s.osz (operand s.osz d s) s) := chain_of_next (rmRead_of_accessible h)

theorem exec_imulRmv (h : Accessible s.osz d s) :
    exec (.imulRmv d) s = .next (imulWith s.osz (operand s.osz d s) s) := chain_of_next (rmRead_of_accessible h)

theorem exec_divRmv (h : Accessible s.osz d s) : exec (.divRmv d) s = divWith s.osz (operand s.osz d s) s :=
  chain_of_next (rmRead_of_accessible h)

theorem exec_idivRmv (h : Accessible s.osz d s) : exec (.idivRmv d) s = idivWith s.osz (operand s.osz d s) s :=
  chain_of_next (rmRead_of_accessible h)

end

/-- Settles O38: the halves written are those of the product, and CF says whether the high half carries any of it. -/
theorem multiplyIsExact : Obligations.MultiplyIsExact := by
  intro d s h a b
  have wide := bits_pos s.osz
  have inRange : a.toNat * b.toNat < 2 ^ s.osz.bits * 2 ^ s.osz.bits := toNat_mul_toNat_lt a b
  refine ⟨⟨_, _, _, exec_mulRmv h, mulFlags_pairWritten .., ofNat_halves inRange, high_bne_zero_iff inRange, rfl⟩,
    _, _, _, exec_imulRmv h, mulFlags_pairWritten .., ofInt_halves wide (high_fitsSigned a b wide), ?_, rfl⟩
  rw [← eq_toInt_ofInt_iff _ wide]
  exact decide_eq_true_iff

/-- Settles O39: the quotient fits, being that of a divisor greater than the high half, and so does the remainder. -/
theorem unsignedDivisionIsExact : Obligations.UnsignedDivisionIsExact := by
  intro d s h hlt
  have smaller := Nat.mod_lt (divDividend s.osz s) (Nat.zero_lt_of_lt hlt)
  have quotient : (BitVec.ofNat s.osz.bits (divDividend s.osz s / (operand s.osz d s).toNat)).toNat = _ :=
    toNat_ofNat_of_lt ((quotient_lt_iff _ _ _ (ne_zero_of_toNat_lt hlt)).2 hlt)
  have remainder := toNat_ofNat_of_lt (smaller.trans (operand s.osz d s).isLt)
  refine ⟨_, _, _, (exec_divRmv h).trans (divWith_of_lt hlt), divFlags_pairWritten .., ?_⟩
  rw [quotient, remainder]
  exact ⟨(Nat.div_add_mod' ..).symm, smaller⟩

/-- Settles O40: the quotient fits by hypothesis, and the remainder because it is smaller than the divisor. -/
theorem signedDivisionIsExact : Obligations.SignedDivisionIsExact := by
  intro d s h D v hv fits
  have wide := bits_pos s.osz
  have hb : operand s.osz d s ≠ 0 := fun zero => hv ((congrArg BitVec.toInt zero).trans BitVec.toInt_zero)
  have quotient : (BitVec.ofInt s.osz.bits (D.tdiv v)).toInt = D.tdiv v := toInt_ofInt_of_fitsSigned wide fits
  have remainder : (BitVec.ofInt s.osz.bits (D.tmod v)).toInt = D.tmod v :=
    toInt_ofInt_of_fitsSigned wide (tmod_fitsSigned D hb)
  refine ⟨BitVec.ofInt _ (D.tdiv v), BitVec.ofInt _ (D.tmod v), _, (exec_idivRmv h).trans (idivWith_of_fits hb fits),
    divFlags_pairWritten .., ?_⟩
  rw [quotient, remainder]
  exact ⟨(Int.tdiv_mul_add_tmod D v).symm, tmod_natAbs_lt D hv, tmod_sign D v⟩

/-- Settles O41: the read of the operand stops first, then the test for zero, then that of the quotient. -/
theorem divisionFaults : Obligations.DivisionFaults := by
  intro d s
  refine ⟨?bounds, fun h hzero => ?zero, fun h hb => ?overflow⟩
  case bounds =>
    rintro o rfl has hcap
    have read := rmRead_of_outOfBounds has hcap
    exact ⟨chain_of_fault read, chain_of_fault read⟩
  case zero =>
    rw [exec_divRmv h, exec_idivRmv h, hzero]
    exact ⟨divWith_zero .., idivWith_zero ..⟩
  case overflow =>
    rw [exec_divRmv h, exec_idivRmv h]
    exact ⟨divWith_of_le hb, idivWith_of_not_fits hb⟩

end Sys2Proof.Machine

/-! PROOFS. The reg values that the group opcodes do not map (44_shift_rotate.md R321, 49_dispatch.md R472). -/

namespace Sys2Proof

open Sys2Proof.Machine

/-- What follows a ModRM byte sees that byte as it was fetched (30_encoding.md R105). -/
theorem withModrm_of_byte {f : Fetch} {off : Nat} {b : Byte} (h : f off 1 = some (b.setWidth 32)) (m : DecodeMode)
    (k : Byte → RegIdx → Rm → Nat → Decoded) : withModrm f m off k = withModrm f m off fun _ => k b := by
  rw [withModrm, withModrm, withByte_some h, withByte_some h]

/-- The reg values that the group opcodes do not map have no entry in their rows (49_dispatch.md R472). -/
theorem lookup_unmappedGroupReg : ∀ p ∈ unmappedGroupRegs,
    ∃ subs, lookup primaryTable p.1 = some (.group subs) ∧ subs.getD p.2.toNat none = none := by
  unfold unmappedGroupRegs
  repeat refine List.forall_mem_cons.2 ⟨⟨_, rfl, rfl⟩, ?_⟩
  exact List.forall_mem_nil _

theorem runGroup_unmapped {f : Fetch} {m : DecodeMode} {g b : Byte} {subs : List (Option SubEntry)} {reg : RegIdx}
    (hs : subs.getD reg.toNat none = none) (d : Rm) (next : Nat) :
    runGroup f m g subs b reg d next = .unmapped [g, b] := by
  rw [runGroup, hs]

theorem decode_unmappedGroupReg {f : Fetch} {m : DecodeMode} {g : Byte} {reg : RegIdx} {d : Rm}
    (hg : (g, reg) ∈ unmappedGroupRegs) (hd : d.wf m = true) (hb : AtBytes f 0 (g :: encodeRm reg d)) :
    decode f m = .unmapped (g :: (encodeRm reg d).take 1) := by
  obtain ⟨subs, hl, hs⟩ := lookup_unmappedGroupReg _ hg
  obtain ⟨b, bs, henc⟩ := List.exists_cons_of_length_pos (Nat.lt_of_succ_le (Laws.encodeRm_length reg d).1)
  rw [henc] at hb ⊢
  rw [decode_primary hb hl nofun, runEntry_group, withModrm_of_byte hb.tail.head]
  rw [← henc, ← List.append_nil (encodeRm reg d)] at hb
  obtain ⟨_, hgroup⟩ := withModrm_at hd hb.tail fun _ => runGroup f m g subs b
  exact hgroup.trans (runGroup_unmapped hs d _)

end Sys2Proof

namespace Sys2Proof.Machine

open Sys2Proof

/-- Settles O6: the row of the group opcode has no entry for the reg value, which is looked up after the whole operand has
been fetched. -/
theorem unmappedGroupRegFaults : Obligations.UnmappedGroupRegFaults := fun _ _ _ _ _ _ h hn hg hd hbytes =>
  step_unmapped h hn (decode_unmappedGroupReg hg hd (memFetch_atBytes hbytes))

end Sys2Proof.Machine

/-! PROOFS. SHL, SHR and SAR as products and quotients by powers of two, ROL, ROR, RCL and RCR as turns of a ring of bits, and
what the seven operations leave when they complete on their operand (44_shift_rotate.md). -/

namespace Sys2Proof.Machine

open Sys2Proof

section

variable {n : Nat}

/-! ## The loops of the shifts -/

/-- The loop of SHL shifts by the count; CF is the top bit before the last turn (44_shift_rotate.md R318). -/
theorem shlLoop_succ (c : Nat) (a : BitVec n) (cf : Bool) :
    shlLoop (c + 1) a cf = (a <<< (c + 1), (a <<< c).getLsbD (n - 1)) := by
  induction c generalizing a cf with
  | zero => rw [BitVec.shiftLeft_zero]; rfl
  | succ c ih => rw [shlLoop, ih, ← BitVec.shiftLeft_add, ← BitVec.shiftLeft_add, Nat.add_comm 1, Nat.add_comm 1]

/-- The loop of SHR shifts by the count; CF is the lowest bit before the last turn (44_shift_rotate.md R319). -/
theorem shrLoop_succ (c : Nat) (a : BitVec n) (cf : Bool) :
    shrLoop (c + 1) a cf = (a >>> (c + 1), (a >>> c).getLsbD 0) := by
  induction c generalizing a cf with
  | zero => rw [BitVec.ushiftRight_zero]; rfl
  | succ c ih => rw [shrLoop, ih, ← BitVec.shiftRight_add, ← BitVec.shiftRight_add, Nat.add_comm 1, Nat.add_comm 1]

/-- One turn of the loop of SAR puts the sign bit back on top (44_shift_rotate.md R320). -/
theorem sign_or_ushiftRight_one (a : BitVec n) :
    ((BitVec.ofBool a.msb).setWidth n <<< (n - 1)) ||| (a >>> 1) = a.sshiftRight 1 := by
  refine BitVec.eq_of_getLsbD_eq fun i hi => ?_
  rw [BitVec.getLsbD_or, BitVec.getLsbD_shiftLeft, BitVec.getLsbD_setWidth, BitVec.getLsbD_ofBool,
    BitVec.getLsbD_ushiftRight, BitVec.getLsbD_sshiftRight]
  by_cases below : 1 + i < n
  · have notTop : i < n - 1 := by omega
    simp [below, notTop, hi]
  · have top : n - 1 = i := by omega
    have above : a.getLsbD (1 + i) = false := BitVec.getLsbD_of_ge _ _ (by omega)
    have nonempty : 0 < n := by omega
    simp [below, top, above, hi, nonempty]

/-- The loop of SAR with the operand's own sign shifts it arithmetically by the count; CF is the lowest bit before the last
turn (44_shift_rotate.md R320). -/
theorem sarLoop_succ (c : Nat) (a : BitVec n) (cf : Bool) :
    sarLoop a.msb (c + 1) a cf = (a.sshiftRight (c + 1), (a.sshiftRight c).getLsbD 0) := by
  induction c generalizing a cf with
  | zero => rw [sarLoop, sign_or_ushiftRight_one, BitVec.sshiftRight_zero]; rfl
  | succ c ih =>
    have turned := ih (a.sshiftRight 1) (a.getLsbD 0)
    rw [BitVec.msb_sshiftRight, ← BitVec.sshiftRight_add, ← BitVec.sshiftRight_add, Nat.add_comm 1,
      Nat.add_comm 1] at turned
    rw [sarLoop, sign_or_ushiftRight_one, turned]

/-! ## Rings of bits -/

/-- Rotating left by `c` moves bit `k` to the place `c` further round. -/
theorem getLsbD_rotateLeft_add_mod (a : BitVec n) (c : Nat) {k : Nat} (hk : k < n) :
    (a.rotateLeft c).getLsbD ((k + c) % n) = a.getLsbD k := by
  have turn : c % n < n := Nat.mod_lt c (by omega)
  rw [BitVec.getLsbD_rotateLeft, Nat.add_mod_eq_ite, Nat.mod_eq_of_lt hk]
  split
  next wraps =>
    have low : k + c % n - n < c % n := by omega
    have source : n - c % n + (k + c % n - n) = k := by omega
    rw [decide_eq_true low, cond_true, source]
  next stays =>
    have high : ¬ k + c % n < c % n := by omega
    rw [decide_eq_false high, cond_false, decide_eq_true (Nat.not_le.1 stays), Bool.true_and, Nat.add_sub_cancel]

/-- Rotating right by `c` moves to place `k` the bit that is `c` further round. -/
theorem getLsbD_rotateRight_eq (a : BitVec n) (c : Nat) {k : Nat} (hk : k < n) :
    (a.rotateRight c).getLsbD k = a.getLsbD ((k + c) % n) := by
  have turn : c % n < n := Nat.mod_lt c (by omega)
  rw [BitVec.getLsbD_rotateRight, Nat.add_mod_eq_ite, Nat.mod_eq_of_lt hk]
  split
  next wraps =>
    have high : ¬ k < n - c % n := by omega
    have source : k - (n - c % n) = k + c % n - n := by omega
    rw [decide_eq_false high, cond_false, decide_eq_true hk, Bool.true_and, source]
  next stays =>
    have low : k < n - c % n := by omega
    rw [decide_eq_true low, cond_true, Nat.add_comm]

/-- The model's case on `c % n` is one rotation left: where `c % n` is 0 no bits come round. -/
theorem shifted_or_eq_rotateLeft (a : BitVec n) (c : Nat) :
    (if c % n > 0 then (a <<< (c % n)) ||| (a >>> (n - c % n)) else a) = a.rotateLeft c := by
  rw [BitVec.rotateLeft_def]
  split
  next => rfl
  next h =>
    have full : c % n = 0 := by omega
    rw [full, BitVec.shiftLeft_zero, Nat.sub_zero, BitVec.ushiftRight_eq_zero (Nat.le_refl n), BitVec.or_zero]

/-- The same for a rotation right. -/
theorem shifted_or_eq_rotateRight (a : BitVec n) (c : Nat) :
    (if c % n > 0 then (a >>> (c % n)) ||| (a <<< (n - c % n)) else a) = a.rotateRight c := by
  rw [BitVec.rotateRight_def]
  split
  next => rfl
  next h =>
    have full : c % n = 0 := by omega
    rw [full, BitVec.ushiftRight_zero, Nat.sub_zero, BitVec.shiftLeft_eq_zero (Nat.le_refl n), BitVec.or_zero]

theorem rolValue_eq (a : BitVec n) (c : Nat) : rolValue a c = a.rotateLeft c := shifted_or_eq_rotateLeft a c

theorem rorValue_eq (a : BitVec n) (c : Nat) : rorValue a c = a.rotateRight c := shifted_or_eq_rotateRight a c

theorem rclRing_eq (a : BitVec n) (cf : Bool) (c : Nat) : rclRing a cf c = (BitVec.cons cf a).rotateLeft c :=
  shifted_or_eq_rotateLeft _ c

theorem rcrRing_eq (a : BitVec n) (cf : Bool) (c : Nat) : rcrRing a cf c = (BitVec.cons cf a).rotateRight c :=
  shifted_or_eq_rotateRight _ c

/-- CF on top of the operand is a ring (44_shift_rotate.md R316). -/
theorem ringBit_eq_cons (a : BitVec n) (cf : Bool) (k : Nat) : ringBit a cf k = (BitVec.cons cf a).getLsbD k :=
  (BitVec.getLsbD_cons ..).symm

/-- A ring cut into CF, its top bit, and the operand is that ring. -/
theorem ringBit_split (t : BitVec (n + 1)) (k : Nat) : ringBit (t.setWidth n) (t.getLsbD n) k = t.getLsbD k := by
  have top : t.getLsbD n = t.msb := (BitVec.msb_eq_getLsbD_last t).symm
  rw [ringBit_eq_cons, top, BitVec.cons_msb_setWidth]

/-! ## What each operation gives -/

/-- What a completed operation says of its result `r` and its flags `g`, from the operand, the masked count and the flags
before (44_shift_rotate.md R313 to R320). -/
structure ShiftGives (op : ShiftOp) (a : BitVec n) (c : Nat) (f : Flags) (r : BitVec n) (g : Flags) : Prop where
  result : r = (shiftResult op a c f.cf).1
  carry : g.cf = (shiftResult op a c f.cf).2
  overflow : c = 1 → g.ofl = shiftOverflow op a r g.cf
  szp : op.isShift = true → SzpOf r g
  kept : op.isShift = false → RotateKeeps f g

variable {a r : BitVec n} {c : Nat} {f g : Flags}

/-- SHL: multiplication by `2 ^ c` (44_shift_rotate.md R318). -/
theorem ShiftGives.shlOk (h : ShiftGives .shl a c f r g) (hn : 2 ≤ n) (hc : c ≠ 0) : ShlOk a c r g := by
  obtain ⟨c, rfl⟩ := Nat.exists_eq_add_one_of_ne_zero hc
  obtain ⟨result, carry, overflow, szp, -⟩ := h
  rw [shiftResult, shlLoop_succ] at result carry
  dsimp only at result carry
  refine ⟨?_, ?_, fun hone => ?_, szp rfl⟩
  · rw [result, BitVec.toNat_shiftLeft, Nat.shiftLeft_eq]
  · have place : n - 1 - c = n - (c + 1) := by omega
    have inside : n - 1 < n := by omega
    have reached : ¬ n - 1 < c ↔ c + 1 ≤ n := by omega
    rw [carry, BitVec.getLsbD_shiftLeft, place, ← reached]
    simp [inside]
  · obtain rfl : c = 0 := Nat.succ.inj hone
    have next : (a <<< (0 + 1)).getLsbD (n - 1) = a.getLsbD (n - 2) := by
      have inside : n - 1 < n := by omega
      have notFirst : ¬ n - 1 < 0 + 1 := by omega
      rw [BitVec.getLsbD_shiftLeft, decide_eq_true inside, decide_eq_false notFirst, Bool.not_false, Bool.true_and,
        Bool.true_and, Nat.sub_sub]
    rw [overflow hone, shiftOverflow, result, carry, BitVec.shiftLeft_zero, next, bne_iff_ne, ne_comm]

/-- SHR: division by `2 ^ c` (44_shift_rotate.md R319). -/
theorem ShiftGives.shrOk (h : ShiftGives .shr a c f r g) (hc : c ≠ 0) : ShrOk a c r g := by
  obtain ⟨c, rfl⟩ := Nat.exists_eq_add_one_of_ne_zero hc
  obtain ⟨result, carry, overflow, szp, -⟩ := h
  rw [shiftResult, shrLoop_succ] at result carry
  dsimp only at result carry
  refine ⟨?_, ?_, fun hone => ?_, szp rfl⟩
  · rw [result, BitVec.toNat_ushiftRight, Nat.shiftRight_eq_div_pow]
  · rw [carry, BitVec.getLsbD_ushiftRight]
    exact ⟨fun bit => ⟨BitVec.lt_of_getLsbD bit, bit⟩, And.right⟩
  · rw [overflow hone]
    rfl

/-- SAR: division by `2 ^ c` toward minus infinity (44_shift_rotate.md R320). -/
theorem ShiftGives.sarOk (h : ShiftGives .sar a c f r g) (hn : 0 < n) (hc : c ≠ 0) : SarOk a c r g := by
  obtain ⟨c, rfl⟩ := Nat.exists_eq_add_one_of_ne_zero hc
  obtain ⟨result, carry, overflow, szp, -⟩ := h
  rw [shiftResult, ← BitVec.msb_eq_getLsbD_last, sarLoop_succ] at result carry
  dsimp only at result carry
  refine ⟨?_, ?_, overflow, szp rfl⟩
  · rw [result, BitVec.toInt_sshiftRight, Int.shiftRight_eq_div_pow, Int.natCast_pow]
    rfl
  · have nonempty : ¬ n ≤ 0 := by omega
    rw [carry, BitVec.getLsbD_sshiftRight, decide_eq_false nonempty, Bool.not_false, Bool.true_and, Nat.add_zero,
      Nat.add_sub_cancel]
    by_cases below : c + 1 < n
    · have inside : c < n := by omega
      rw [if_pos inside, if_pos below]
    · have sign : (if c < n then a.getLsbD c else a.msb) = a.msb := by
        split
        next inside =>
          have last : c = n - 1 := by omega
          rw [last, BitVec.msb_eq_getLsbD_last]
        next => rfl
      rw [sign, if_neg below, BitVec.msb_eq_toInt, decide_eq_true_eq]

/-- ROL (44_shift_rotate.md R314). -/
theorem ShiftGives.rolOk (h : ShiftGives .rol a c f r g) : RolOk a c f r g := by
  obtain ⟨result, carry, overflow, -, kept⟩ := h
  have turned : r = a.rotateLeft c := result.trans (rolValue_eq a c)
  refine ⟨fun k hk => ?_, ?_, overflow, kept rfl⟩
  · rw [turned, getLsbD_rotateLeft_add_mod a c hk]
  · rw [carry, result]
    rfl

/-- ROR (44_shift_rotate.md R315). -/
theorem ShiftGives.rorOk (h : ShiftGives .ror a c f r g) : RorOk a c f r g := by
  obtain ⟨result, carry, overflow, -, kept⟩ := h
  have turned : r = a.rotateRight c := result.trans (rorValue_eq a c)
  refine ⟨fun k hk => ?_, ?_, overflow, kept rfl⟩
  · rw [turned, getLsbD_rotateRight_eq a c hk]
  · rw [carry, result]
    rfl

/-- RCL (44_shift_rotate.md R316). -/
theorem ShiftGives.rclOk (h : ShiftGives .rcl a c f r g) : RclOk a c f r g := by
  obtain ⟨result, carry, overflow, -, kept⟩ := h
  refine ⟨fun k hk => ?_, overflow, kept rfl⟩
  rw [result, carry, shiftResult, ringBit_split, rclRing_eq, getLsbD_rotateLeft_add_mod _ c hk, ringBit_eq_cons]

/-- RCR (44_shift_rotate.md R317). -/
theorem ShiftGives.rcrOk (h : ShiftGives .rcr a c f r g) : RcrOk a c f r g := by
  obtain ⟨result, carry, overflow, -, kept⟩ := h
  refine ⟨fun k hk => ?_, overflow, kept rfl⟩
  rw [result, carry, shiftResult, ringBit_split, rcrRing_eq, getLsbD_rotateRight_eq _ c hk, ringBit_eq_cons]

/-! ## The flags an operation leaves -/

theorem shiftCarry_cf (op : ShiftOp) (a r : BitVec n) (c : Nat) (cf : Bool) (s : State) :
    (shiftCarry op a r c cf s).flags.cf = cf := by
  rw [shiftCarry]
  split <;> rfl

theorem shiftCarry_ofl (op : ShiftOp) (a r : BitVec n) (cf : Bool) (s : State) :
    (shiftCarry op a r 1 cf s).flags.ofl = shiftOverflow op a r cf := rfl

/-- CF and OF are all of the flags that a rotate writes (44_shift_rotate.md R314 to R317). -/
theorem shiftCarry_keeps (op : ShiftOp) (a r : BitVec n) (c : Nat) (cf : Bool) (s : State) :
    RotateKeeps s.flags (shiftCarry op a r c cf s).flags := by
  rw [shiftCarry]
  split <;> exact ⟨rfl, rfl, rfl, rfl⟩

/-- SF, ZF and PF are written, AF is drawn, CF and OF are left (44_shift_rotate.md R318 to R320). -/
theorem shiftSzp_flags (r : BitVec n) (s : State) :
    SzpOf r (shiftSzp r s).flags ∧ (shiftSzp r s).flags.cf = s.flags.cf ∧ (shiftSzp r s).flags.ofl = s.flags.ofl :=
  ⟨szpOf_flagsSzp .., rfl, rfl⟩

theorem shiftFlags_gives (op : ShiftOp) (a : BitVec n) (c : Nat) {r : BitVec n} {cf : Bool} {s t : State}
    (hr : shiftResult op a c s.flags.cf = (r, cf)) (hf : t.flags = s.flags) :
    ShiftGives op a c s.flags r (shiftFlags op a r c cf t).flags := by
  have carry : (shiftCarry op a r c cf t).flags.cf = cf := shiftCarry_cf ..
  have overflow : c = 1 → (shiftCarry op a r c cf t).flags.ofl = shiftOverflow op a r cf := by
    rintro rfl
    exact shiftCarry_ofl ..
  rw [shiftFlags]
  split
  next hshift =>
    obtain ⟨szp, cfKept, oflKept⟩ := shiftSzp_flags r (shiftCarry op a r c cf t)
    rw [← cfKept] at carry
    rw [← oflKept] at overflow
    exact ⟨by rw [hr], by rw [hr, carry], by rwa [carry], fun _ => szp, fun hrotate => by simp [hshift] at hrotate⟩
  next hrotate =>
    exact ⟨by rw [hr], by rw [hr, carry], by rwa [carry], fun hshift => absurd hshift hrotate,
      fun _ => hf ▸ shiftCarry_keeps ..⟩

end

/-! ## The operations on an accessible operand -/

/-- `Written` looks at registers and memory only, so drawing unspecified bits afterwards does not matter. -/
theorem Written.drawn {w : Width} {d : Rm} {v : BitVec w.bits} {s t : State} (h : Written w d v s t) (m : Nat) :
    Written w d v s (t.drawn m) := by
  cases d with
  | reg r => cases w <;> exact h
  | mem o => exact h

theorem shiftFlags_written {w : Width} {d : Rm} {v : BitVec w.bits} {s t : State} (h : Written w d v s t) (op : ShiftOp)
    (a r : BitVec w.bits) (c : Nat) (cf : Bool) : Written w d v s (shiftFlags op a r c cf t) := by
  have carried : Written w d v s (shiftCarry op a r c cf t) := by
    rw [shiftCarry]
    split
    · exact h.setFlags _
    · exact (h.setFlags _).drawn 1
  rw [shiftFlags]
  split
  · exact (carried.setFlags _).drawn 1
  · exact carried

section

variable {d : Rm} {s : State} {raw : Byte}

/-- The low five bits of a count are its remainder by 32 (44_shift_rotate.md R312). -/
theorem maskedCount_eq_countOf (raw : Byte) : maskedCount raw = countOf raw := by
  rw [maskedCount, countOf, BitVec.toNat_and]
  exact Nat.and_two_pow_sub_one_eq_mod raw.toNat 5

theorem shiftRm_of_zero (op : ShiftOp) (h : Accessible s.osz d s) (hc : countOf raw = 0) :
    shiftRm op s.osz d raw s = .next s := by
  rw [shiftRm, rmRead_of_accessible h, chain_next]
  exact if_pos ((maskedCount_eq_countOf raw).trans hc)

theorem shiftRm_of_ne_zero {op : ShiftOp} (h : Accessible s.osz d s) (hc : countOf raw ≠ 0) {r : BitVec s.osz.bits}
    {cf : Bool} (hr : shiftResult op (operand s.osz d s) (countOf raw) s.flags.cf = (r, cf)) :
    shiftRm op s.osz d raw s =
      .next (shiftFlags op (operand s.osz d s) r (countOf raw) cf (rmWritten s.osz d r s)) := by
  rw [shiftRm, rmRead_of_accessible h, chain_next, maskedCount_eq_countOf]
  dsimp only
  rw [if_neg hc, hr, rmWrite_of_accessible _ h, chain_next]

/-- With a masked count above 0 an operation completes with what it gives, and keeps all else but the flags it leaves
unspecified (44_shift_rotate.md R310, R313). -/
theorem shiftRm_done {op : ShiftOp} (h : Accessible s.osz d s) (hc : countOf raw ≠ 0)
    {ok : BitVec s.osz.bits → Flags → Prop}
    (hok : ∀ {r g}, ShiftGives op (operand s.osz d s) (countOf raw) s.flags r g → ok r g) :
    ShiftDone d s (shiftRm op s.osz d raw s) ok := by
  rcases hr : shiftResult op (operand s.osz d s) (countOf raw) s.flags.cf with ⟨r, cf⟩
  have completed := shiftRm_of_ne_zero h hc hr
  obtain ⟨plain, ip⟩ := (shiftRm_ordinary op s.osz d raw s).next _ completed
  exact ⟨r, _, completed, hok (shiftFlags_gives op _ _ hr (rmWritten_flags ..)),
    shiftFlags_written (rmWritten_written ..) op _ r _ cf,
    ⟨plain.pfx, plain.capacity, plain.ipStart, plain.notice, plain.hostCalls⟩, ip, plain.flags⟩

end

/-- Settles O44: each count source gives its masked count to the loop of the operation. -/
theorem shiftsInClosedForm : Obligations.ShiftsInClosedForm := by
  intro d b s h a cl
  have wide : 2 ≤ s.osz.bits := by cases s.osz <;> decide
  have done (raw : Byte) (hc : countOf raw ≠ 0) :
      ShiftDone d s (shiftRm .shl s.osz d raw s) (ShlOk a (countOf raw)) ∧
        ShiftDone d s (shiftRm .shr s.osz d raw s) (ShrOk a (countOf raw)) ∧
        ShiftDone d s (shiftRm .sar s.osz d raw s) (SarOk a (countOf raw)) :=
    ⟨shiftRm_done h hc fun gives => gives.shlOk wide hc, shiftRm_done h hc fun gives => gives.shrOk hc,
      shiftRm_done h hc fun gives => gives.sarOk (bits_pos s.osz) hc⟩
  exact ⟨done 1#8 (by decide), done b, done cl⟩

/-- Settles O45: the value of each rotate is the operand turned by the masked count. -/
theorem rotatesMoveEachBit : Obligations.RotatesMoveEachBit := by
  intro d b s h a cl
  have done (raw : Byte) (hc : countOf raw ≠ 0) :
      ShiftDone d s (shiftRm .rol s.osz d raw s) (RolOk a (countOf raw) s.flags) ∧
        ShiftDone d s (shiftRm .ror s.osz d raw s) (RorOk a (countOf raw) s.flags) :=
    ⟨shiftRm_done h hc ShiftGives.rolOk, shiftRm_done h hc ShiftGives.rorOk⟩
  exact ⟨done 1#8 (by decide), done b, done cl⟩

/-- Settles O46: CF on top of the operand is one word of a bit more, which is turned as ROL and ROR turn theirs. -/
theorem carryRotatesTurnTheRing : Obligations.CarryRotatesTurnTheRing := by
  intro d b s h a cl
  have done (raw : Byte) (hc : countOf raw ≠ 0) :
      ShiftDone d s (shiftRm .rcl s.osz d raw s) (RclOk a (countOf raw) s.flags) ∧
        ShiftDone d s (shiftRm .rcr s.osz d raw s) (RcrOk a (countOf raw) s.flags) :=
    ⟨shiftRm_done h hc ShiftGives.rclOk, shiftRm_done h hc ShiftGives.rcrOk⟩
  exact ⟨done 1#8 (by decide), done b, done cl⟩

/-- Settles O43: with a masked count of 0 the operand is read and nothing is written. -/
theorem maskedCountZeroChangesNothing : Obligations.MaskedCountZeroChangesNothing := by
  intro d b s h
  have kept (raw : Byte) (hc : countOf raw = 0) (op : ShiftOp) : shiftRm op s.osz d raw s = .next s :=
    shiftRm_of_zero op h hc
  exact ⟨fun hc => ⟨kept b hc .rol, kept b hc .ror, kept b hc .rcl, kept b hc .rcr, kept b hc .shl, kept b hc .shr,
      kept b hc .sar⟩,
    fun hc => ⟨kept _ hc .rol, kept _ hc .ror, kept _ hc .rcl, kept _ hc .rcr, kept _ hc .shl, kept _ hc .shr,
      kept _ hc .sar⟩⟩

end Sys2Proof.Machine

/-! PROOFS. MOV: the write of an accessible operand with what the source holds (45_data_movement.md R350 to R358). -/

namespace Sys2Proof.Machine

open Sys2Proof

section

variable {w : Width} {d : Rm} {s : State}

/-- Writing an accessible operand is a whole move (45_data_movement.md R351, R352, R357, R358). -/
theorem rmWrite_moveDone (h : Accessible w d s) (v : BitVec w.bits) : MoveDone w d v s (rmWrite w d v s) :=
  ⟨_, rmWrite_of_accessible v h, rmWritten_written w d v s, rmWritten_restKept w d v s⟩

/-- A register is accessible in every state, so its write is a move that always completes
(45_data_movement.md R355, R356). -/
theorem writeReg_moveDone (r : RegIdx) (v : BitVec w.bits) (s : State) :
    MoveDone w (.reg r) v s (.next (writeReg w r v s)) := rmWrite_moveDone (d := .reg r) trivial v

/-- Reading an accessible operand into a register is the move of what it holds (45_data_movement.md R353, R354). -/
theorem rmRead_writeReg_moveDone (h : Accessible w d s) (r : RegIdx) :
    MoveDone w (.reg r) (operand w d s) s (chain (rmRead w d s) fun v => .next (writeReg w r v s)) := by
  rw [rmRead_of_accessible h, chain_next]
  exact writeReg_moveDone r _ s

end

/-- Settles O47: a form writes an operand, reads an operand into a register, or writes a register. -/
theorem movForms : Obligations.MovForms := by
  intro x r d b v s
  exact ⟨fun h => ⟨rmWrite_moveDone h _, rmRead_writeReg_moveDone h r, rmWrite_moveDone h b⟩,
    fun h => ⟨rmWrite_moveDone h _, rmRead_writeReg_moveDone h r, rmWrite_moveDone h _⟩,
    writeReg_moveDone (w := .w8) r b s, writeReg_moveDone r _ s⟩

end Sys2Proof.Machine

/-! PROOFS. JMP, INT and the dispatcher's answer, and where the notice of a step comes from (47_control_transfer.md R390
to R392, R440, R441, 60_exceptions.md R506). -/

namespace Sys2Proof

open Sys2Proof.Machine

/-! ## What the decoder reports as a PFX byte -/

section

variable {f : Fetch} {m : DecodeMode} {off n : Nat} {i : Instr}

theorem withField_eq_pfxByte {k : Word → Decoded} (h : withField f off n k = .pfxByte i) : ∃ v, k v = .pfxByte i := by
  unfold withField at h
  split at h
  next v _ => exact ⟨v, h⟩
  next => exact nomatch h

theorem withByte_eq_pfxByte {k : Byte → Decoded} (h : withByte f off k = .pfxByte i) : ∃ b, k b = .pfxByte i := by
  rw [withByte_eq_withField] at h
  obtain ⟨v, hv⟩ := withField_eq_pfxByte h
  exact ⟨_, hv⟩

theorem withModrm_eq_pfxByte {k : Byte → RegIdx → Rm → Nat → Decoded} (h : withModrm f m off k = .pfxByte i) :
    ∃ b reg d next, k b reg d next = .pfxByte i := by
  unfold withModrm at h
  obtain ⟨b, h⟩ := withByte_eq_pfxByte h
  refine ⟨b, b.extractLsb' 3 3, ?_⟩
  dsimp only at h
  split at h
  next => exact ⟨_, _, h⟩
  split at h
  next => exact nomatch h
  split at h
  next =>
    obtain ⟨sib, h⟩ := withByte_eq_pfxByte h
    split at h
    next => exact ⟨_, _, h⟩
    split at h
    next => obtain ⟨_, h⟩ := withByte_eq_pfxByte h; exact ⟨_, _, h⟩
    next => obtain ⟨_, h⟩ := withField_eq_pfxByte h; exact ⟨_, _, h⟩
  split at h
  next =>
    split at h
    next => obtain ⟨_, h⟩ := withField_eq_pfxByte h; exact ⟨_, _, h⟩
    next => exact ⟨_, _, h⟩
  split at h
  next => obtain ⟨_, h⟩ := withByte_eq_pfxByte h; exact ⟨_, _, h⟩
  next => obtain ⟨_, h⟩ := withField_eq_pfxByte h; exact ⟨_, _, h⟩

theorem runSub_ne_pfxByte (d : Rm) (e : SubEntry) : runSub f m d off e ≠ .pfxByte i := by
  intro h
  cases e with
  | rm mk => exact nomatch h
  | rmIb mk =>
    rw [runSub] at h
    obtain ⟨_, h⟩ := withByte_eq_pfxByte h
    exact nomatch h
  | rmIv mk =>
    rw [runSub] at h
    obtain ⟨_, h⟩ := withField_eq_pfxByte h
    exact nomatch h

/-- Only the entry of a PFX byte is run to one (49_dispatch.md R475). -/
theorem runEntry_eq_pfxByte {b : Byte} {e : Entry} (h : runEntry f m b off e = .pfxByte i) : e = .pfx i := by
  cases e with
  | pfx j => rw [Decoded.pfxByte.inj h]
  | escape | nullary | plusReg => exact nomatch h
  | ib | plusRegIb =>
    rw [runEntry] at h
    obtain ⟨_, h⟩ := withByte_eq_pfxByte h
    exact nomatch h
  | iv | plusRegIv =>
    rw [runEntry] at h
    obtain ⟨_, h⟩ := withField_eq_pfxByte h
    exact nomatch h
  | rel8 mk =>
    rw [runEntry] at h
    split at h
    next => exact nomatch h
    next => obtain ⟨_, h⟩ := withByte_eq_pfxByte h; exact nomatch h
  | rel32 mk =>
    rw [runEntry] at h
    split at h
    next => exact nomatch h
    next => obtain ⟨_, h⟩ := withField_eq_pfxByte h; exact nomatch h
  | modrm mk =>
    rw [runEntry] at h
    obtain ⟨_, _, _, _, h⟩ := withModrm_eq_pfxByte h
    exact nomatch h
  | modrmIb mk =>
    rw [runEntry] at h
    obtain ⟨_, _, _, _, h⟩ := withModrm_eq_pfxByte h
    obtain ⟨_, h⟩ := withByte_eq_pfxByte h
    exact nomatch h
  | modrmIv mk =>
    rw [runEntry] at h
    obtain ⟨_, _, _, _, h⟩ := withModrm_eq_pfxByte h
    obtain ⟨_, h⟩ := withField_eq_pfxByte h
    exact nomatch h
  | modrmMem mk =>
    rw [runEntry] at h
    obtain ⟨_, _, d, _, h⟩ := withModrm_eq_pfxByte h
    cases d with
    | reg | mem => exact nomatch h
  | group subs =>
    rw [runEntry] at h
    obtain ⟨_, _, d, _, h⟩ := withModrm_eq_pfxByte h
    split at h
    next sub _ => exact absurd h (runSub_ne_pfxByte d sub)
    next => exact nomatch h

end

/-- If an entry is that of a PFX byte, its instruction is one. -/
def Entry.pfxTruly : Entry → Bool
  | .pfx i => i.isPfxByte
  | _ => true

theorem lookup_pfxTruly {t : List Row} (ht : ∀ r ∈ t, r.entry.pfxTruly = true) {b : Byte} {e : Entry}
    (h : lookup t b = some e) : e.pfxTruly = true := by
  induction t with
  | nil => exact nomatch h
  | cons r t ih =>
    obtain ⟨hr, ht⟩ := List.forall_mem_cons.1 ht
    rw [lookup] at h
    split at h
    next => exact Option.some.inj h ▸ hr
    next => exact ih ht h

/-- A PFX byte comes from the row selected, which is that of the byte itself. -/
theorem isPfxByte_of_runEntry {t : List Row} (ht : ∀ r ∈ t, r.entry.pfxTruly = true) {f : Fetch} {m : DecodeMode}
    {b : Byte} {off : Nat} {e : Entry} {i : Instr} (hl : lookup t b = some e)
    (h : runEntry f m b off e = .pfxByte i) : i.isPfxByte = true := by
  rw [runEntry_eq_pfxByte h] at hl
  exact lookup_pfxTruly ht hl

theorem primaryTable_pfxTruly : ∀ r ∈ primaryTable, r.entry.pfxTruly = true := by decide

theorem secondTable_pfxTruly : ∀ r ∈ secondTable, r.entry.pfxTruly = true := by decide

/-- What the decoder reports as a PFX byte is one of the eleven (30_encoding.md R134). -/
theorem isPfxByte_of_decode {f : Fetch} {m : DecodeMode} {i : Instr} (h : decode f m = .pfxByte i) :
    i.isPfxByte = true := by
  obtain ⟨b, h⟩ := withByte_eq_pfxByte h
  split at h
  next => exact nomatch h
  next =>
    obtain ⟨b2, h⟩ := withByte_eq_pfxByte h
    split at h
    next => exact nomatch h
    next hl => exact isPfxByte_of_runEntry secondTable_pfxTruly hl h
  next hl => exact isPfxByte_of_runEntry primaryTable_pfxTruly hl h

end Sys2Proof

namespace Sys2Proof.Machine

open Sys2Proof

/-! ## What INT does -/

@[simp] theorem dispatchInt_regs (v : Byte) (s : State) :
    (dispatchInt v s).regs = (Config.intDispatch v s.view).regs := by
  obtain ⟨n, hn⟩ := dispatchInt_eq v s; rw [hn]; rfl

@[simp] theorem dispatchInt_flags (v : Byte) (s : State) :
    (dispatchInt v s).flags = Flags.ofWord (Config.intDispatch v s.view).flags := by
  obtain ⟨n, hn⟩ := dispatchInt_eq v s; rw [hn]; rfl

@[simp] theorem dispatchInt_freeCount (v : Byte) (s : State) : (dispatchInt v s).freeCount = s.freeCount := by
  obtain ⟨n, hn⟩ := dispatchInt_eq v s; rw [hn]; rfl

/-- The notice reports an unhandled vector, and otherwise stays (60_exceptions.md R506). -/
theorem dispatchInt_notice (v : Byte) (s : State) :
    (dispatchInt v s).notice =
      if (Config.intDispatch v s.view).handled then s.notice else some { vector := v, ipStart := s.ipStart } := by
  rw [dispatchInt]
  split
  next => rfl
  next => rfl

/-- One byte written by the host changes that byte if it lies in memory, and nothing if it does not (log 6). -/
theorem Memory.hostWrites_one_byte (m : Memory) (b : Nat) (v : Byte) (a : Nat) :
    (if m.inBounds b 1 then m.setByte b v else m).byte a = if a < m.capacity ∧ b = a then v else m.byte a := by
  have inside : m.inBounds b 1 = true ↔ b < m.capacity := decide_eq_true_iff
  simp only [inside]
  split
  next hb =>
    rw [Memory.setByte_byte]
    by_cases ha : b = a
    · subst ha; simp [hb]
    · simp [ha, Ne.symm ha]
  next hb => rw [if_neg]; rintro ⟨ha, rfl⟩; exact hb ha

/-- A byte of memory after the host's writes is the last one written there (47_control_transfer.md R440; log 6). -/
theorem Memory.hostWrites_byte (m : Memory) (ws : List Host.Cell) (a : Nat) :
    (m.hostWrites ws).byte a =
      if a < m.capacity then ((ws.reverse.find? fun c => c.1 == a).map fun c => c.2).getD (m.byte a) else m.byte a := by
  induction ws generalizing m with
  | nil => exact (ite_self _).symm
  | cons c ws ih =>
    obtain ⟨b, v⟩ := c
    have capacity : (if m.inBounds b 1 then m.setByte b v else m).capacity = m.capacity := by split <;> rfl
    rw [Memory.hostWrites, ih, capacity, Memory.hostWrites_one_byte, List.reverse_cons, List.find?_append]
    by_cases ha : a < m.capacity
    · cases ws.reverse.find? fun c => c.1 == a with
      | some c => simp [ha]
      | none => by_cases hb : b = a <;> simp [ha, hb]
    · simp [ha]

/-- Settles O56: every field after INT is read off the dispatcher's answer, and memory byte by byte. -/
theorem intCallsTheDispatcher : Obligations.IntCallsTheDispatcher := by
  intro v s r
  refine ⟨dispatchInt v s, rfl, dispatchInt_regs v s, dispatchInt_flags v s, dispatchInt_ip v s, dispatchInt_pfx v s,
    (dispatchInt_memKept v s).capacity, dispatchInt_ipStart v s, dispatchInt_freeCount v s, dispatchInt_hostCalls v s,
    dispatchInt_notice v s, fun a => ?_⟩
  rw [dispatchInt_mem]
  exact Memory.hostWrites_byte s.mem r.writes a

/-! ## Where a notice comes from -/

/-- Only INT sets a notice (60_exceptions.md R506). -/
theorem Effect.notice_eq_or_interrupt {i : Instr} {s t : State} (h : Effect i s t) :
    t.notice = s.notice ∨ ∃ v, i = .intImm8 v ∧ t = dispatchInt v s := by
  cases h with
  | plain _ _ h => exact .inl h.1.notice
  | transfer _ h => exact .inl h.notice
  | prefixByte _ p h => subst h; exact .inl rfl
  | stos _ u hu h => subst h; exact .inl hu.1.notice
  | port _ c h => exact .inl h.1.notice
  | interrupt v hi h => exact .inr ⟨v, hi, h⟩

/-- PFX bytes make no call to the host and set no notice (49_dispatch.md R476). -/
theorem PrefixRun.host_eq {n : Nat} {s t : State} (h : PrefixRun n s t) :
    t.notice = s.notice ∧ t.hostCalls = s.hostCalls := by
  induction h with
  | nil s => exact ⟨rfl, rfl⟩
  | @cons n s s1 t i hd he hr ih =>
    obtain ⟨notice, calls⟩ := ih
    have isPfx : i.isPfxByte = true := isPfxByte_of_decode hd
    have noCall : callsHost i ≠ true := fun hc => by rw [(callsHost_kind hc).2] at isPfx; exact nomatch isPfx
    have calls1 := onlyInOutIntCallTheHost i _ s1 he
    rw [if_neg noCall] at calls1
    obtain notice1 | ⟨v, rfl, -⟩ := (exec_effect he).notice_eq_or_interrupt
    · exact ⟨notice.trans notice1, calls.trans calls1⟩
    · exact absurd rfl noCall

/-- Settles O21: a step starts without a notice, PFX bytes set none, and the instruction after them sets one only if it
is an INT that was not handled. -/
theorem noticesComeFromUnhandledInt : Obligations.NoticesComeFromUnhandledInt := by
  intro s t h
  obtain ⟨n, u, i, len, w, hr, -, he, rfl⟩ := step_eq_next h
  obtain ⟨notice, calls⟩ := hr.host_eq
  obtain notice1 | ⟨v, -, rfl⟩ := (exec_effect he).notice_eq_or_interrupt
  · exact .inl (notice1.trans notice)
  have noticeInt := dispatchInt_notice v (u.advance len)
  have callsInt := dispatchInt_hostCalls v (u.advance len)
  split at noticeInt
  next => exact .inl (noticeInt.trans notice)
  next hh =>
    have ipStart : (u.advance len).ipStart = s.ip := hr.ipStart
    have calls' : (u.advance len).hostCalls = s.hostCalls := calls
    rw [ipStart] at noticeInt
    rw [calls', Bool.eq_false_iff.2 hh] at callsInt
    exact .inr ⟨v, noticeInt, callsInt⟩

/-! ## The unconditional jumps -/

/-- An unrefused jump goes to its target (47_control_transfer.md R390). -/
theorem jump_done {s : State} (h : s.pfx.opovr = false) (rel : Word) :
    JumpDone (BitVec.ofInt 32 (s.ip.toNat + rel.toInt)) s (jump rel s) := by
  rw [jump, transfer_of_not_opovr h, ← relTarget_eq_ofInt]
  exact jumpDone_setIp _ s

/-- Settles O53: the short form is the near form on its sign-extended offset, and the byte 66 refuses every transfer. -/
theorem jumpsAddTheirOffset : Obligations.JumpsAddTheirOffset := by
  intro b v s
  refine ⟨fun h => ⟨?_, jump_done h v⟩, fun h => ⟨transfer_of_opovr h, transfer_of_opovr h⟩⟩
  rw [← BitVec.toInt_signExtend_of_le (v := 32) (by decide)]
  exact jump_done h (b.signExtend 32)

end Sys2Proof.Machine

/-! PROOFS. STOS, one item and a run of ECX items in either direction, and IN and OUT (48_string_io.md R450 to R459). -/

namespace Sys2Proof.Machine

open Sys2Proof

section

variable {w : Width} {s t u : State} {k m : Nat}

/-! ## Where the items of STOS go -/

/-- How far STOS moves EDI, as a number (48_string_io.md R451). -/
def stosStep (w : Width) (s : State) : Int := if s.flags.df then -(w.bytes : Int) else w.bytes

/-- The address of item `k` of a run, counted from 0, which is EDI after `k` items (48_string_io.md R451). -/
def stosItem (w : Width) (s : State) (k : Nat) : Word := BitVec.ofInt 32 ((s.reg edi).toNat + k * stosStep w s)

theorem stosDelta_eq_ofInt (w : Width) (s : State) : stosDelta w s = BitVec.ofInt 32 (stosStep w s) := by
  rw [stosDelta, stosStep]
  split
  next => rw [BitVec.ofInt_neg, BitVec.ofInt_natCast]
  next => rw [BitVec.ofInt_natCast]

theorem stosItem_eq_add (w : Width) (s : State) (k : Nat) :
    stosItem w s k = s.reg edi + BitVec.ofInt 32 (k * stosStep w s) := by
  rw [stosItem, BitVec.ofInt_add, ← eq_ofInt_toNat]

theorem stosItem_zero (w : Width) (s : State) : stosItem w s 0 = s.reg edi := by
  rw [stosItem, Nat.cast_zero, zero_mul, add_zero, ← eq_ofInt_toNat]

theorem stosItem_one (w : Width) (s : State) : stosItem w s 1 = s.reg edi + stosDelta w s := by
  rw [stosItem_eq_add, Nat.cast_one, one_mul, stosDelta_eq_ofInt]

/-- The items that follow the first one are those of the state after it. -/
theorem stosItem_after_first (hedi : t.reg edi = stosItem w s 1) (hflags : t.flags = s.flags) (k : Nat) :
    stosItem w t k = stosItem w s (k + 1) := by
  have step : stosStep w t = stosStep w s := by rw [stosStep, stosStep, hflags]
  rw [stosItem_eq_add, hedi, step, stosItem_eq_add, stosItem_eq_add, BitVec.add_assoc, ← BitVec.ofInt_add, ← add_mul,
    Nat.cast_add, add_comm (k : Int)]

/-- All items are aligned as the first one is, since their width divides 2^32. -/
theorem stosItem_modEq (w : Width) (s : State) (k : Nat) :
    (stosItem w s k).toNat ≡ (s.reg edi).toNat [MOD w.bytes] := by
  have width : (w.bytes : Int) ∣ 2 ^ 32 := by cases w <;> decide
  have step : (w.bytes : Int) ∣ k * stosStep w s := by
    rw [stosStep]
    split
    next => exact (dvd_neg.2 dvd_rfl).mul_left _
    next => exact dvd_rfl.mul_left _
  rw [← Int.natCast_modEq_iff, Int.ModEq, toNat_of_eq_ofInt (a := stosItem w s k) rfl, Int.emod_emod_of_dvd _ width,
    Int.add_emod, Int.emod_eq_zero_of_dvd step, add_zero, Int.emod_emod]

/-- Two items lie at one address or do not overlap. -/
theorem stosItem_eq_or_apart (w : Width) (s : State) (i j : Nat) :
    stosItem w s i = stosItem w s j ∨ (stosItem w s i).toNat + w.bytes ≤ (stosItem w s j).toNat ∨
      (stosItem w s j).toNat + w.bytes ≤ (stosItem w s i).toNat := by
  have aligned := (stosItem_modEq w s i).trans (stosItem_modEq w s j).symm
  obtain below | same | above := Nat.lt_trichotomy (stosItem w s i).toNat (stosItem w s j).toNat
  · exact .inr (.inl (aligned.add_le_of_lt below))
  · exact .inl (BitVec.eq_of_toNat_eq same)
  · exact .inr (.inr (aligned.symm.add_le_of_lt above))

/-! ## What a run of items does -/

/-- From `s` to `t`, `k` items have been stored and EDI moved past them; ECX may have changed, and nothing else has. -/
structure StosStores (w : Width) (k : Nat) (s t : State) : Prop where
  items : ∀ j < k, t.mem.read (stosItem w s j).toNat w = readReg w acc s
  bytes : ∀ b, (∀ j < k, ¬ inField (stosItem w s j).toNat w.bytes b) → t.mem.byte b = s.mem.byte b
  index : t.reg edi = stosItem w s k
  others : ∀ i, i ≠ edi → i ≠ ecx → t.reg i = s.reg i
  rest : RestKept s t

theorem RestKept.refl (s : State) : RestKept s s := ⟨rfl, ⟨rfl, rfl, rfl, rfl, rfl⟩, rfl, rfl⟩

theorem StosStores.none (w : Width) (s : State) : StosStores w 0 s s :=
  ⟨nofun, fun _ _ => rfl, (stosItem_zero w s).symm, fun _ _ _ => rfl, .refl s⟩

theorem StosStores.setEcx (h : StosStores w k s t) (v : Word) : StosStores w k s (t.setReg ecx v) where
  items := h.items
  bytes := h.bytes
  index := (State.setReg_reg_ne t v (by decide)).trans h.index
  others i hi hc := (State.setReg_reg_ne t v hc).trans (h.others i hi hc)
  rest := h.rest.trans (setReg_restKept ..)

/-- One item and then `k` are `k + 1`; the first one stays, as no later one overlaps it but with the same value. -/
theorem StosStores.cons (h : StosStores w 1 s t) (g : StosStores w k t u) : StosStores w (k + 1) s u := by
  have value : readReg w acc t = readReg w acc s := readReg_congr (by decide) (h.others acc (by decide) (by decide))
  obtain ⟨items, bytes, index, others, rest⟩ := g
  simp only [stosItem_after_first h.index h.rest.1, value] at items bytes index
  refine ⟨fun j hj => ?_, fun b hb => ?_, index, fun i hi hc => (others i hi hc).trans (h.others i hi hc),
    h.rest.trans rest⟩
  · cases j with
    | succ j => exact items j (Nat.lt_of_succ_lt_succ hj)
    | zero =>
      by_cases again : ∃ j < k, stosItem w s (j + 1) = stosItem w s 0
      · obtain ⟨j, hj, same⟩ := again
        exact same ▸ items j hj
      · refine (Memory.read_congr fun b low high => bytes b fun j hj inside => ?_).trans (h.items 0 Nat.one_pos)
        obtain same | apart := stosItem_eq_or_apart w s (j + 1) 0
        · exact again ⟨j, hj, same⟩
        · obtain ⟨low', high'⟩ := inside
          omega
  · refine (bytes b fun j hj => hb (j + 1) (Nat.succ_lt_succ hj)).trans (h.bytes b fun j hj => hb j ?_)
    omega

/-- An item that lies in memory is stored (48_string_io.md R451). -/
theorem stosOnce_stores (h : (s.reg edi).toNat + w.bytes ≤ s.mem.capacity) :
    ∃ t, stosOnce w s = .next t ∧ StosStores w 1 s t ∧ t.reg ecx = s.reg ecx := by
  refine ⟨_, chain_of_next (store_of_inBounds h), ⟨fun j hj => ?_, fun b hb => ?_, ?_, fun i hi _ => ?_, ?_⟩, ?_⟩
  · obtain rfl := Nat.lt_one_iff.1 hj
    rw [stosItem_zero]
    exact Memory.read_write_same ..
  · have outside := hb 0 Nat.one_pos
    rw [stosItem_zero] at outside
    exact Memory.write_byte_outside _ _ _ outside
  · rw [stosItem_one]
    exact State.setReg_reg_same ..
  · exact State.setReg_reg_ne _ _ hi
  · exact (setMem_restKept (Memory.write_capacity ..)).trans (setReg_restKept ..)
  · exact State.setReg_reg_ne _ _ (by decide)

theorem stosOnce_of_outOfBounds (h : s.mem.capacity < (s.reg edi).toNat + w.bytes) :
    stosOnce w s = .fault (.outOfBoundsMemoryAccess s.ipStart (s.reg edi) w.bytes .write) :=
  chain_of_fault (store_of_outOfBounds h)

/-- A run whose items all lie in memory stores them and counts ECX down (48_string_io.md R451). -/
theorem stosRepeat_stores (h : ∀ j < k, (stosItem w s j).toNat + w.bytes ≤ s.mem.capacity) :
    ∃ t, stosRepeat w k s = .next t ∧ StosStores w k s t ∧ t.reg ecx = s.reg ecx - BitVec.ofNat 32 k := by
  induction k generalizing s with
  | zero => exact ⟨s, rfl, .none w s, (BitVec.sub_zero _).symm⟩
  | succ k ih =>
    have firstFits := h 0 k.succ_pos
    rw [stosItem_zero] at firstFits
    obtain ⟨t, once, stored, count⟩ := stosOnce_stores firstFits
    have first := stored.setEcx (t.reg ecx - 1)
    obtain ⟨flags, ⟨-, capacity, -⟩, -⟩ := first.rest
    obtain ⟨u, run, later, countLater⟩ := ih (s := t.setReg ecx (t.reg ecx - 1)) fun j hj => by
      rw [stosItem_after_first first.index flags, capacity]
      exact h (j + 1) (Nat.succ_lt_succ hj)
    refine ⟨u, (chain_of_next once).trans run, first.cons later, ?_⟩
    rw [countLater, State.setReg_reg_same, count, BitVec.sub_sub, BitVec.ofNat_add, BitVec.add_comm]
    rfl

/-- A run can be cut in two (48_string_io.md R451). -/
theorem stosRepeat_add (w : Width) (k m : Nat) (s : State) :
    stosRepeat w (k + m) s = chain (stosRepeat w k s) (stosRepeat w m) := by
  induction k generalizing s with
  | zero => rw [Nat.zero_add, stosRepeat, chain_next]
  | succ k ih =>
    rw [Nat.succ_add, stosRepeat, stosRepeat]
    cases stosOnce w s with
    | next t => exact ih _
    | fault r => rfl
    | refused r => rfl

/-- A run faults at its first item that does not lie in memory (48_string_io.md R451). -/
theorem stosRepeat_faults (hk : k < m) (h : ∀ j < k, (stosItem w s j).toNat + w.bytes ≤ s.mem.capacity)
    (hout : s.mem.capacity < (stosItem w s k).toNat + w.bytes) :
    stosRepeat w m s = .fault (.outOfBoundsMemoryAccess s.ipStart (stosItem w s k) w.bytes .write) := by
  obtain ⟨t, run, stored, -⟩ := stosRepeat_stores h
  obtain ⟨-, ⟨-, capacity, ipStart, -, -⟩, -, -⟩ := stored.rest
  obtain ⟨l, rfl⟩ : ∃ l, m = k + (l + 1) := ⟨m - k - 1, by omega⟩
  rw [← capacity, ← stored.index] at hout
  rw [stosRepeat_add, run, chain_next, stosRepeat, stosOnce_of_outOfBounds hout, chain_fault, ipStart, stored.index]

/-! ## The whole instruction -/

/-- Clearing the repeat bits changes nothing else (48_string_io.md R451). -/
theorem StosStores.stosKeeps (h : StosStores w k s t) : StosKeeps s (clearRepeat t) := by
  obtain ⟨flags, ⟨pfx, capacity, ipStart, notice, hostCalls⟩, ip, freeCount⟩ := h.rest
  refine ⟨h.others, flags, ip, ?_, capacity, ipStart, notice, hostCalls, freeCount⟩
  rw [clearRepeat, State.setPfx_pfx, pfx]

theorem exec_stos_of_not_repeating (has : s.pfx.as32 = true) (hz : s.pfx.repz = false) (hnz : s.pfx.repnz = false) :
    exec .stos s = chain (stosOnce s.osz s) fun t => .next (clearRepeat t) := by
  have once : s.repeating = false := by rw [State.repeating, hz, hnz]; rfl
  calc exec .stos s
    _ = chain (if s.repeating then _ else _) _ := if_pos has
    _ = _ := by rw [if_neg (Bool.eq_false_iff.1 once)]

theorem exec_stos_of_repeating (has : s.pfx.as32 = true) (hr : s.pfx.repz = true ∨ s.pfx.repnz = true) :
    exec .stos s = chain (stosRepeat s.osz (s.reg ecx).toNat s) fun t => .next (clearRepeat t) := by
  have repeats : s.repeating = true := Bool.or_eq_true_iff.2 hr
  calc exec .stos s
    _ = chain (if s.repeating then _ else _) _ := if_pos has
    _ = _ := by rw [if_pos repeats]

/-- A repeated STOS whose items all lie in memory stores ECX of them (48_string_io.md R451). -/
theorem exec_stos_stores (has : s.pfx.as32 = true) (hr : s.pfx.repz = true ∨ s.pfx.repnz = true)
    (h : ∀ j < (s.reg ecx).toNat, (stosItem s.osz s j).toNat + s.osz.bytes ≤ s.mem.capacity) :
    ∃ t, exec .stos s = .next (clearRepeat t) ∧ StosStores s.osz (s.reg ecx).toNat s t ∧ t.reg ecx = 0 := by
  obtain ⟨t, run, stored, count⟩ := stosRepeat_stores h
  rw [BitVec.ofNat_toNat, BitVec.setWidth_eq, BitVec.sub_self] at count
  exact ⟨t, (exec_stos_of_repeating has hr).trans (chain_of_next run), stored, count⟩

end

/-- Settles O57: the one item that STOS stores is the first of a run, at EDI itself. -/
theorem stosStoresOneItem : Obligations.StosStoresOneItem := by
  intro s has hz hnz n p
  rw [exec_stos_of_not_repeating has hz hnz]
  refine ⟨fun h => ?_, fun h => chain_of_fault (stosOnce_of_outOfBounds h)⟩
  obtain ⟨t, once, stored, count⟩ := stosOnce_stores h
  have item := stored.items 0 Nat.one_pos
  have index := stored.index
  rw [stosItem_zero] at item
  rw [stosItem, Nat.cast_one, one_mul] at index
  refine ⟨clearRepeat t, chain_of_next once, item, fun b hb => stored.bytes b fun j hj => ?_, index, count,
    stored.stosKeeps⟩
  obtain rfl := Nat.lt_one_iff.1 hj
  rw [stosItem_zero]
  exact hb

section

variable {w : Width} {s t : State} {k c : Nat}

/-! ## Runs upwards and downwards -/

theorem bytes_pos (w : Width) : 0 < w.bytes := by cases w <;> decide

/-- An item of a run ends where the run ends, or before. -/
theorem item_end_le (hk : k < c) (n : Nat) : k * n + n ≤ c * n := by
  rw [← Nat.succ_mul]
  exact Nat.mul_le_mul_right n hk

/-- Going upwards, item `k` lies `k` widths above EDI (48_string_io.md R451). -/
theorem stosItem_upwards (hdf : s.flags.df = false) (k : Nat) :
    stosItem w s k = BitVec.ofNat 32 ((s.reg edi).toNat + k * w.bytes) := by
  rw [stosItem, stosStep, hdf, if_neg Bool.false_ne_true, ← BitVec.ofInt_natCast, Nat.cast_add, Nat.cast_mul]

theorem stosItem_upwards_toNat (hdf : s.flags.df = false) (h : (s.reg edi).toNat + k * w.bytes < 2 ^ 32) :
    (stosItem w s k).toNat = (s.reg edi).toNat + k * w.bytes := by
  rw [stosItem_upwards hdf, toNat_ofNat_of_lt h]

/-- Going downwards, item `k` lies `k` widths below EDI (48_string_io.md R451). -/
theorem stosItem_downwards_toNat (hdf : s.flags.df = true) (h : k * w.bytes ≤ (s.reg edi).toNat) :
    (stosItem w s k).toNat = (s.reg edi).toNat - k * w.bytes := by
  have address : stosItem w s k = BitVec.ofNat 32 ((s.reg edi).toNat - k * w.bytes) := by
    rw [stosItem, stosStep, hdf, if_pos rfl, ← BitVec.ofInt_natCast, Nat.cast_sub h, Nat.cast_mul, mul_neg,
      ← sub_eq_add_neg]
  have bound := (s.reg edi).isLt
  rw [address, toNat_ofNat_of_lt (by omega)]

/-- Where the items of a run upwards lie, when its addresses do not wrap. -/
theorem stosItem_upwards_inRun (hdf : s.flags.df = false) (hrun : (s.reg edi).toNat + c * w.bytes ≤ 2 ^ 32)
    (hk : k < c) :
    (stosItem w s k).toNat = (s.reg edi).toNat + k * w.bytes ∧
      (stosItem w s k).toNat + w.bytes ≤ (s.reg edi).toNat + c * w.bytes := by
  have width := bytes_pos w
  have itemEnd := item_end_le hk w.bytes
  rw [stosItem_upwards_toNat hdf (by omega)]
  exact ⟨rfl, by omega⟩

/-- Where the items of a run downwards lie, when its addresses do not wrap. -/
theorem stosItem_downwards_inRun (hdf : s.flags.df = true) (hrun : (c - 1) * w.bytes ≤ (s.reg edi).toNat)
    (hk : k < c) :
    (stosItem w s k).toNat = (s.reg edi).toNat - k * w.bytes ∧
      (s.reg edi).toNat + w.bytes - c * w.bytes ≤ (stosItem w s k).toNat ∧
      (stosItem w s k).toNat ≤ (s.reg edi).toNat := by
  have notBelow : k * w.bytes ≤ (c - 1) * w.bytes := Nat.mul_le_mul_right _ (Nat.le_sub_one_of_lt hk)
  have itemEnd := item_end_le hk w.bytes
  rw [stosItem_downwards_toNat hdf (by omega)]
  exact ⟨rfl, by omega, by omega⟩

/-- A run that fills `size` bytes from address `a` on leaves the bytes outside them. -/
theorem StosStores.bytesKeptBut {a size : Nat} (h : StosStores w c s t)
    (hin : ∀ k < c, a ≤ (stosItem w s k).toNat ∧ (stosItem w s k).toNat + w.bytes ≤ a + size) :
    BytesKeptBut a size s t := by
  refine fun b outside => h.bytes b fun k hk inside => outside ?_
  obtain ⟨low, high⟩ := hin k hk
  obtain ⟨low', high'⟩ := inside
  exact ⟨low.trans low', high'.trans_le high⟩

/-- A run upwards past the end of memory faults at the first item that does not lie in it (48_string_io.md R451). -/
theorem stosRepeat_past (hdf : s.flags.df = false) (hcap : s.mem.capacity < 2 ^ 32) (hc : c ≠ 0)
    (hpast : s.mem.capacity < (s.reg edi).toNat + c * w.bytes) :
    stosRepeat w c s =
      .fault (.outOfBoundsMemoryAccess s.ipStart
        (BitVec.ofNat 32 ((s.reg edi).toNat + (s.mem.capacity - (s.reg edi).toNat) / w.bytes * w.bytes)) w.bytes
        .write) := by
  have width := bytes_pos w
  have bound := (s.reg edi).isLt
  have fitting := Nat.div_mul_le_self (s.mem.capacity - (s.reg edi).toNat) w.bytes
  have nextItem := Nat.lt_div_mul_add (a := s.mem.capacity - (s.reg edi).toNat) width
  generalize (s.mem.capacity - (s.reg edi).toNat) / w.bytes = k at fitting nextItem ⊢
  have before : k < c := by
    have run : 0 < c * w.bytes := Nat.mul_pos (Nat.pos_of_ne_zero hc) width
    exact Nat.lt_of_mul_lt_mul_right (a := w.bytes) (by omega)
  rw [← stosItem_upwards hdf]
  refine stosRepeat_faults before (fun j hj => ?_) ?_
  · have itemEnd := item_end_le hj w.bytes
    rw [stosItem_upwards_toNat hdf (by omega)]
    omega
  · rw [stosItem_upwards_toNat hdf (by omega)]
    omega

end

/-- Settles O58: where no address wraps, the items of a run lie one beside the other from EDI on, upwards or downwards. -/
theorem stosRepeatsEcxTimes : Obligations.StosRepeatsEcxTimes := by
  intro s has hr hcap
  refine ⟨fun hdf hfits => ?upwards, fun hdf hfits => ?downwards, fun hdf hcap' hc hpast =>
    (exec_stos_of_repeating has hr).trans (chain_of_fault (stosRepeat_past hdf hcap' hc hpast))⟩
  case upwards =>
    have place (k : Nat) (hk : k < (s.reg ecx).toNat) :=
      stosItem_upwards_inRun hdf ((hfits (Nat.ne_zero_of_lt hk)).trans hcap) hk
    obtain ⟨t, run, stored, count⟩ := exec_stos_stores has hr fun k hk =>
      (place k hk).2.trans (hfits (Nat.ne_zero_of_lt hk))
    refine ⟨_, run, fun k hk => (place k hk).1 ▸ stored.items k hk, ?_, ?_, count, stored.stosKeeps⟩
    · refine stored.bytesKeptBut fun k hk => ?_
      obtain ⟨address, inRun⟩ := place k hk
      exact ⟨by omega, inRun⟩
    · refine stored.index.trans ?_
      rw [stosItem, stosStep, hdf, if_neg Bool.false_ne_true]
  case downwards =>
    have place (k : Nat) (hk : k < (s.reg ecx).toNat) :=
      stosItem_downwards_inRun hdf (hfits (Nat.ne_zero_of_lt hk)).1 hk
    obtain ⟨t, run, stored, count⟩ := exec_stos_stores has hr fun k hk =>
      (Nat.add_le_add_right (place k hk).2.2 _).trans (hfits (Nat.ne_zero_of_lt hk)).2
    refine ⟨_, run, fun k hk => (place k hk).1 ▸ stored.items k hk, ?_, ?_, count, stored.stosKeeps⟩
    · refine stored.bytesKeptBut fun k hk => ?_
      obtain ⟨-, above, below⟩ := place k hk
      exact ⟨above, by omega⟩
    · refine stored.index.trans ?_
      rw [stosItem, stosStep, hdf, if_pos rfl, mul_neg, ← sub_eq_add_neg]

/-! ## The ports -/

/-- Settles O59: the call to the backend is all that changes, but for AL, which IN writes. -/
theorem portInstructions : Obligations.PortInstructions := by
  intro b s dx input output
  have inDone (port : BitVec 16) {i : Instr} (h : exec i s = .next (inPort port s)) : input port i := by
    obtain ⟨⟨pfx, capacity, ipStart, notice, calls, -, -⟩, ip⟩ := inPort_plain port s
    exact ⟨_, h, writeReg_written .., fun a => by rw [inPort, writeReg_mem]; rfl, writeReg_flags .., ip, pfx, capacity,
      calls, notice, ipStart, writeReg_freeCount ..⟩
  have outDone (port : BitVec 16) {i : Instr} (h : exec i s = .next (outPort port s)) : output port i :=
    ⟨_, h, fun _ => rfl, fun _ => rfl, rfl, rfl, rfl, rfl, rfl, rfl, rfl, rfl⟩
  exact ⟨inDone _ rfl, inDone _ rfl, outDone _ rfl, outDone _ rfl⟩

end Sys2Proof.Machine

/-! PROOFS. The dispatch loop: one instruction as a step, the runs of `runUntil` and how they end, and which faults come
from a meaning (49_dispatch.md R480, R485, R487, 60_exceptions.md R500). -/

namespace Sys2Proof.Machine

open Sys2Proof

/-! ## The instruction at IP as a step -/

/-- Without PFX bytes before it, the instruction at IP is the whole step (49_dispatch.md R485). -/
theorem step_of_decodeAt {s : State} {i : Instr} {len : Nat} (h : decodeAt s = .ok i len) :
    step s = chain (exec i (s.begin.advance len)) fun t => .next (commonTail t) :=
  prefixRunAndInstructionAreOneStep 0 s s.begin i len (.nil s.begin) (Nat.zero_le _) h

/-- Settles O7: the step is the empty run of PFX bytes and the instruction, taken by its outcome; the fetch writes IP,
`ipStart` and `notice`, and the tail writes PFX. -/
theorem stepRunsTheDecodedInstruction : Obligations.StepRunsTheDecodedInstruction := by
  refine ⟨fun s i len hd => ?_, fun s len => ⟨rfl, rfl, rfl, rfl, rfl, rfl, rfl⟩,
    fun t => ⟨t.pfx.tail_betweenSteps, t.pfx.tail_repz, t.pfx.tail_repnz, rfl, rfl, rfl, rfl⟩⟩
  rw [step_of_decodeAt hd]
  cases exec i (s.begin.advance len) with
  | next t => rfl
  | fault r => rfl
  | refused r => rfl

/-! ## Runs -/

section

variable {pred : State → Bool} {s : State} {ns : List Notice}

/-- The predicate is tested before anything else (49_dispatch.md R487). -/
theorem runUntil_of_pred (h : pred s = true) (budget : Nat) :
    runUntil pred budget s ns = .stoppedByPredicate s ns := by
  cases budget with
  | zero => exact if_pos h
  | succ k => exact if_pos h

theorem runUntil_zero (h : pred s = false) : runUntil pred 0 s ns = .budgetSpent s ns :=
  if_neg (Bool.eq_false_iff.1 h)

theorem runUntil_next {s1 : State} (h : pred s = false) (hs : step s = .next s1) (budget : Nat) :
    runUntil pred (budget + 1) s ns = runUntil pred budget s1 (ns ++ s1.notice.toList) := by
  rw [runUntil, if_neg (Bool.eq_false_iff.1 h), hs]

theorem runUntil_fault {r : Fault} (h : pred s = false) (hs : step s = .fault r) (budget : Nat) :
    runUntil pred (budget + 1) s ns = .halted s r ns := by
  rw [runUntil, if_neg (Bool.eq_false_iff.1 h), hs]

theorem runUntil_refused {r : Refusal} (h : pred s = false) (hs : step s = .refused r) (budget : Nat) :
    runUntil pred (budget + 1) s ns = .stoppedByRefusal s r ns := by
  rw [runUntil, if_neg (Bool.eq_false_iff.1 h), hs]

end

/-- What each end of a run says of its last state: whether the predicate holds there, and what the step there answers. -/
def RunEnd.TrueOf (pred : State → Bool) : RunEnd → Prop
  | .stoppedByPredicate s _ => pred s = true
  | .halted s r _ => step s = .fault r ∧ pred s = false
  | .stoppedByRefusal s r _ => step s = .refused r ∧ pred s = false
  | .budgetSpent s _ => pred s = false

/-- Whatever the end of a run says is true of the state it ends at, however many steps lead there. -/
theorem runUntil_trueOf (pred : State → Bool) (budget : Nat) (s : State) (ns : List Notice) :
    (runUntil pred budget s ns).TrueOf pred := by
  induction budget generalizing s ns with
  | zero =>
    cases hp : pred s with
    | true => rw [runUntil_of_pred hp]; exact hp
    | false => rw [runUntil_zero hp]; exact hp
  | succ budget ih =>
    cases hp : pred s with
    | true => rw [runUntil_of_pred hp]; exact hp
    | false =>
      cases hs : step s with
      | next s1 => rw [runUntil_next hp hs]; exact ih ..
      | fault r => rw [runUntil_fault hp hs]; exact ⟨hs, hp⟩
      | refused r => rw [runUntil_refused hp hs]; exact ⟨hs, hp⟩

/-- Settles O22: by induction on the budget every end is true of its state; the rest is one turn of the loop. -/
theorem runUntilStopsWhereItSays : Obligations.RunUntilStopsWhereItSays := by
  intro pred budget s ns
  have ends {e : RunEnd} (h : runUntil pred budget s ns = e) : e.TrueOf pred := h ▸ runUntil_trueOf pred budget s ns
  refine ⟨fun _ _ _ h => ends h, fun _ _ h => ends h, fun _ _ _ h => ends h, fun _ _ h => ends h,
    fun hp => runUntil_of_pred hp budget, fun hp => ⟨?_, ?_, ?_, runUntil_zero hp⟩⟩
  · exact fun _ hs => runUntil_next hp hs budget
  · exact fun _ hs => runUntil_fault hp hs budget
  · exact fun _ hs => runUntil_refused hp hs budget

/-! ## The faults of a meaning -/

/-- Settles O19: the shared forms raise out-of-bounds records only, and the divisions of DIV and IDIV the divide faults
too. -/
theorem divideFaultsComeFromDivision : Obligations.DivideFaultsComeFromDivision := by
  intro i s r h
  obtain ⟨addr, n, dir, oob, -, -⟩ | division : InstrFault i s r := (exec_sound i s).fault r h
  · exact .inl ⟨s.ipStart, addr, n, dir, oob⟩
  · exact .inr division

end Sys2Proof.Machine
